-- ==== Sys2Proof/Word.lean ====
section
/-! DEFINITION. The value types of the hardware (00_scope.md R7, R8): bytes, 16-bit words and register numbers. -/

namespace Sys2Proof

/-- An 8-bit unsigned value: a `V` register, a byte of memory, the immediate `NN`. -/
abbrev Byte := BitVec 8

/-- A 16-bit unsigned value: `I`, `PC`, a stack entry, an instruction `op`, the sixteen key levels. -/
abbrev Word := BitVec 16

/-- The number of a `V` register, 0 to 15 (R20): the fields `X` and `Y`. -/
abbrev Reg := Fin 16

end Sys2Proof
end

