-- ==== Sys2Proof/Config.lean ====
section
/-! DEFINITION. What this hardware fixes (00_scope.md R5), the parameters the spec decides (R6), and the free values of
the inputs the host samples into a step (10_state.md R37, R38). -/

namespace Sys2Proof.Config

/-- `MEM_SIZE` (R5): addresses 0 to 4095. -/
abbrev memSize : Nat := 4096

/-- `PROGRAM_OFFSET` (R5). -/
abbrev programOffset : Nat := 0x200

/-- `PROGRAM_MAX` (R5): the longest program image `load` takes. -/
abbrev programMax : Nat := 3584

/-- `STACK_DEPTH` (R6, decision D3). UNVERIFIED, unsafe: notes/assumptions/3. -/
abbrev stackDepth : Nat := 16

/-- `I_INCREMENT` (R6, decision D4): FX55 and FX65 leave `I` alone. UNVERIFIED, unsafe: notes/assumptions/4. -/
def iIncrement : Bool := false

/-- `FX1E_VF` (R6, decision D5): FX1E does not write `VF`. UNVERIFIED, unsafe: notes/assumptions/5. -/
def fx1eVf : Bool := false

/-- `TIMER_WIDTH` (R6, decision D12): the bits of `DT` and `ST`. FX07, FX15 and FX18 copy between a timer and an 8-bit `V`
register with no conversion (R176, R178, R179), so they are typed only at this width. UNVERIFIED, unsafe:
notes/assumptions/12. -/
abbrev timerWidth : Nat := 8

/-- `MEM_INIT` (R6, decision D10): what memory outside the glyphs holds after reset. UNVERIFIED, unsafe:
notes/assumptions/10. -/
def memInit : Byte := 0x00

/-- `FONT` (R6, R36): the sixteen glyphs, five bytes each, in digit order. PRESUMED, unsafe: notes/assumptions/11. -/
def font : List Byte :=
  [0xF0, 0x90, 0x90, 0x90, 0xF0, 0x20, 0x60, 0x20, 0x20, 0x70,
   0xF0, 0x10, 0xF0, 0x80, 0xF0, 0xF0, 0x10, 0xF0, 0x10, 0xF0] ++
  [0x90, 0x90, 0xF0, 0x10, 0x10, 0xF0, 0x80, 0xF0, 0x10, 0xF0,
   0xF0, 0x80, 0xF0, 0x90, 0xF0, 0xF0, 0x10, 0x20, 0x40, 0x40] ++
  [0xF0, 0x90, 0xF0, 0x90, 0xF0, 0xF0, 0x90, 0xF0, 0x10, 0xF0,
   0xF0, 0x90, 0xF0, 0x90, 0x90, 0xE0, 0x90, 0xE0, 0x90, 0xE0] ++
  [0xF0, 0x80, 0x80, 0x80, 0xF0, 0xE0, 0x90, 0x90, 0x90, 0xE0,
   0xF0, 0x80, 0xF0, 0x80, 0xF0, 0xF0, 0x80, 0xF0, 0x80, 0x80]

/-- The key levels the host presents when no scheduled step event gives them (R37): a free value, one for every draw.
DESIGN CHOICE, safe: notes/assumptions/26. -/
opaque freeKeys : Nat → Word

/-- The random byte the host presents when no scheduled step event gives it (R38): a free value, one for every draw.
DESIGN CHOICE, safe: notes/assumptions/26. -/
opaque freeRnd : Nat → Byte

end Sys2Proof.Config
end

