-- ==== Sys2Proof/Syntax.lean ====
section
/-! DEFINITION. The 35 instructions (30_encoding.md R86), one constructor a row of the opcode table, named by the code
pattern, which is the normative name of an instruction (R94). -/

namespace Sys2Proof

/-- An instruction with its fields (R8, R82, R83): `x`, `y` register numbers, `nn`, `nnn` immediates, `n` a row count. -/
inductive Instr
  | op00E0
  | op00EE
  | op0NNN (nnn : BitVec 12)
  | op1NNN (nnn : BitVec 12)
  | op2NNN (nnn : BitVec 12)
  | op3XNN (x : Reg) (nn : Byte)
  | op4XNN (x : Reg) (nn : Byte)
  | op5XY0 (x y : Reg)
  | op6XNN (x : Reg) (nn : Byte)
  | op7XNN (x : Reg) (nn : Byte)
  | op8XY0 (x y : Reg)
  | op8XY1 (x y : Reg)
  | op8XY2 (x y : Reg)
  | op8XY3 (x y : Reg)
  | op8XY4 (x y : Reg)
  | op8XY5 (x y : Reg)
  | op8XY6 (x y : Reg)
  | op8XY7 (x y : Reg)
  | op8XYE (x y : Reg)
  | op9XY0 (x y : Reg)
  | opANNN (nnn : BitVec 12)
  | opBNNN (nnn : BitVec 12)
  | opCXNN (x : Reg) (nn : Byte)
  | opDXYN (x y : Reg) (n : BitVec 4)
  | opEX9E (x : Reg)
  | opEXA1 (x : Reg)
  | opFX07 (x : Reg)
  | opFX0A (x : Reg)
  | opFX15 (x : Reg)
  | opFX18 (x : Reg)
  | opFX1E (x : Reg)
  | opFX29 (x : Reg)
  | opFX33 (x : Reg)
  | opFX55 (x : Reg)
  | opFX65 (x : Reg)
deriving DecidableEq, Repr

end Sys2Proof
end

