-- ==== Sys2Proof/WellFormed.lean ====
section
/-! DEFINITION. Which terms of `Instr` are instructions. Every field's range is in its type; the one further condition is
that 0NNN does not stand for the two fixed codes 00E0 and 00EE (30_encoding.md R84, R88). -/

namespace Sys2Proof

/-- R88: 0NNN is every word 0x0000 to 0x0FFF other than 0x00E0 and 0x00EE. -/
def Instr.wf : Instr → Bool
  | .op00E0 => true
  | .op00EE => true
  | .op0NNN nnn => nnn != 0x0E0 && nnn != 0x0EE
  | .op1NNN _ => true
  | .op2NNN _ => true
  | .op3XNN _ _ => true
  | .op4XNN _ _ => true
  | .op5XY0 _ _ => true
  | .op6XNN _ _ => true
  | .op7XNN _ _ => true
  | .op8XY0 _ _ => true
  | .op8XY1 _ _ => true
  | .op8XY2 _ _ => true
  | .op8XY3 _ _ => true
  | .op8XY4 _ _ => true
  | .op8XY5 _ _ => true
  | .op8XY6 _ _ => true
  | .op8XY7 _ _ => true
  | .op8XYE _ _ => true
  | .op9XY0 _ _ => true
  | .opANNN _ => true
  | .opBNNN _ => true
  | .opCXNN _ _ => true
  | .opDXYN _ _ _ => true
  | .opEX9E _ => true
  | .opEXA1 _ => true
  | .opFX07 _ => true
  | .opFX0A _ => true
  | .opFX15 _ => true
  | .opFX18 _ => true
  | .opFX1E _ => true
  | .opFX29 _ => true
  | .opFX33 _ => true
  | .opFX55 _ => true
  | .opFX65 _ => true

end Sys2Proof
end

