-- ==== Sys2Proof/Decode.lean ====
section
/-! DEFINITION. The decoder, total on all bytes (30_encoding.md R80 to R90), and after it the encoder written from the same
table (R82, R86). -/

namespace Sys2Proof

/-- Why bytes are no instruction: too few of them, or a word of the illegal space (R87). -/
inductive DecodeError
  | truncated (length : Nat)
  | invalidOpcode (op : Word)
deriving DecidableEq, Repr

/-- `op = MEM[PC] ++ MEM[PC + 1]`, the byte at the lower address most significant (R50, R81). UNVERIFIED, unsafe:
notes/assumptions/1. -/
def opcodeWord (hi lo : Byte) : Word := hi ++ lo

/-- The nibble of `op` whose lowest bit is bit `lo` (R8). -/
def nibbleAt (op : Word) (lo : Nat) : BitVec 4 := op.extractLsb' lo 4

/-- A nibble as the number of a register (R83). -/
def nibbleReg (n : BitVec 4) : Reg := ⟨n.toNat, n.isLt⟩

/-- `X = op[11:8]` (R8). -/
def fieldX (op : Word) : Reg := nibbleReg (nibbleAt op 8)

/-- `Y = op[7:4]` (R8). -/
def fieldY (op : Word) : Reg := nibbleReg (nibbleAt op 4)

/-- `N = op[3:0]` (R8). -/
def fieldN (op : Word) : BitVec 4 := op.extractLsb' 0 4

/-- `NN = op[7:0]` (R8). -/
def fieldNN (op : Word) : Byte := op.extractLsb' 0 8

/-- `NNN = op[11:0]` (R8). -/
def fieldNNN (op : Word) : BitVec 12 := op.extractLsb' 0 12

/-- R84, `n0 = 0`: the two fixed codes take priority over 0NNN. -/
def decode0 (op : Word) : Option Instr :=
  if op = 0x00E0#16 then some .op00E0
  else if op = 0x00EE#16 then some .op00EE
  else some (.op0NNN (fieldNNN op))

/-- R84, `n0 = 8`: the sub-opcode is `n3`. -/
def decode8 (op : Word) : Option Instr :=
  match (nibbleAt op 0).toNat with
  | 0x0 => some (.op8XY0 (fieldX op) (fieldY op))
  | 0x1 => some (.op8XY1 (fieldX op) (fieldY op))
  | 0x2 => some (.op8XY2 (fieldX op) (fieldY op))
  | 0x3 => some (.op8XY3 (fieldX op) (fieldY op))
  | 0x4 => some (.op8XY4 (fieldX op) (fieldY op))
  | 0x5 => some (.op8XY5 (fieldX op) (fieldY op))
  | 0x6 => some (.op8XY6 (fieldX op) (fieldY op))
  | 0x7 => some (.op8XY7 (fieldX op) (fieldY op))
  | 0xE => some (.op8XYE (fieldX op) (fieldY op))
  | _ => none

/-- R84, `n0 = E`: the sub-opcode is `NN`. -/
def decodeE (op : Word) : Option Instr :=
  match (fieldNN op).toNat with
  | 0x9E => some (.opEX9E (fieldX op))
  | 0xA1 => some (.opEXA1 (fieldX op))
  | _ => none

/-- R84, `n0 = F`: the sub-opcode is `NN`. -/
def decodeF (op : Word) : Option Instr :=
  match (fieldNN op).toNat with
  | 0x07 => some (.opFX07 (fieldX op))
  | 0x0A => some (.opFX0A (fieldX op))
  | 0x15 => some (.opFX15 (fieldX op))
  | 0x18 => some (.opFX18 (fieldX op))
  | 0x1E => some (.opFX1E (fieldX op))
  | 0x29 => some (.opFX29 (fieldX op))
  | 0x33 => some (.opFX33 (fieldX op))
  | 0x55 => some (.opFX55 (fieldX op))
  | 0x65 => some (.opFX65 (fieldX op))
  | _ => none

/-- The decoder of R84: total on all 65536 values of `op`; `none` is `invalid`. It reads nothing but `op` (R85). -/
def decodeOp (op : Word) : Option Instr :=
  match (nibbleAt op 12).toNat with
  | 0x0 => decode0 op
  | 0x1 => some (.op1NNN (fieldNNN op))
  | 0x2 => some (.op2NNN (fieldNNN op))
  | 0x3 => some (.op3XNN (fieldX op) (fieldNN op))
  | 0x4 => some (.op4XNN (fieldX op) (fieldNN op))
  | 0x5 => if nibbleAt op 0 = 0#4 then some (.op5XY0 (fieldX op) (fieldY op)) else none
  | 0x6 => some (.op6XNN (fieldX op) (fieldNN op))
  | 0x7 => some (.op7XNN (fieldX op) (fieldNN op))
  | 0x8 => decode8 op
  | 0x9 => if nibbleAt op 0 = 0#4 then some (.op9XY0 (fieldX op) (fieldY op)) else none
  | 0xA => some (.opANNN (fieldNNN op))
  | 0xB => some (.opBNNN (fieldNNN op))
  | 0xC => some (.opCXNN (fieldX op) (fieldNN op))
  | 0xD => some (.opDXYN (fieldX op) (fieldY op) (fieldN op))
  | 0xE => decodeE op
  | _ => decodeF op

/-- The decoder on a byte stream: an instruction is exactly two bytes (R80); what is left comes back. -/
def decode : List Byte → Except DecodeError (Instr × List Byte)
  | hi :: lo :: rest =>
    match decodeOp (opcodeWord hi lo) with
    | some i => .ok (i, rest)
    | none => .error (.invalidOpcode (opcodeWord hi lo))
  | short => .error (.truncated short.length)

/-- The two bytes of an instruction word as they stand in memory, lowest address first (R81). -/
def wordBytes (op : Word) : List Byte := [op.extractLsb' 8 8, op.extractLsb' 0 8]

/-- The word an opcode-table row numbers: one 16-bit word, its bits above `nbits` zero. -/
def tableWord (nbits w : Nat) : Word := BitVec.ofNat 16 (w % 2 ^ nbits)

/-- The instruction the decoder reads from the bytes of an opcode-table word. -/
def decodeTableWord (nbits w : Nat) : Option Instr :=
  match decode (wordBytes (tableWord nbits w)) with
  | .ok (i, _) => some i
  | .error _ => none

/-- A register number as a nibble. -/
def regNibble (r : Reg) : BitVec 4 := BitVec.ofNat 4 r.val

/-- `FMT_NNN` (R82). -/
def encodeNNN (n0 : BitVec 4) (nnn : BitVec 12) : Word := n0 ++ nnn

/-- `FMT_XNN`, and `FMT_X`, where `NN` is the sub-opcode (R82). -/
def encodeXNN (n0 : BitVec 4) (x : Reg) (nn : Byte) : Word := n0 ++ regNibble x ++ nn

/-- `FMT_XY` and `FMT_XYN` (R82): the last nibble is the sub-opcode or the row count. -/
def encodeXYN (n0 : BitVec 4) (x y : Reg) (n3 : BitVec 4) : Word := n0 ++ regNibble x ++ regNibble y ++ n3

/-- The word of an instruction, from the table of R86. -/
def encode : Instr → Word
  | .op00E0 => 0x00E0#16
  | .op00EE => 0x00EE#16
  | .op0NNN nnn => encodeNNN 0x0 nnn
  | .op1NNN nnn => encodeNNN 0x1 nnn
  | .op2NNN nnn => encodeNNN 0x2 nnn
  | .op3XNN x nn => encodeXNN 0x3 x nn
  | .op4XNN x nn => encodeXNN 0x4 x nn
  | .op5XY0 x y => encodeXYN 0x5 x y 0x0
  | .op6XNN x nn => encodeXNN 0x6 x nn
  | .op7XNN x nn => encodeXNN 0x7 x nn
  | .op8XY0 x y => encodeXYN 0x8 x y 0x0
  | .op8XY1 x y => encodeXYN 0x8 x y 0x1
  | .op8XY2 x y => encodeXYN 0x8 x y 0x2
  | .op8XY3 x y => encodeXYN 0x8 x y 0x3
  | .op8XY4 x y => encodeXYN 0x8 x y 0x4
  | .op8XY5 x y => encodeXYN 0x8 x y 0x5
  | .op8XY6 x y => encodeXYN 0x8 x y 0x6
  | .op8XY7 x y => encodeXYN 0x8 x y 0x7
  | .op8XYE x y => encodeXYN 0x8 x y 0xE
  | .op9XY0 x y => encodeXYN 0x9 x y 0x0
  | .opANNN nnn => encodeNNN 0xA nnn
  | .opBNNN nnn => encodeNNN 0xB nnn
  | .opCXNN x nn => encodeXNN 0xC x nn
  | .opDXYN x y n => encodeXYN 0xD x y n
  | .opEX9E x => encodeXNN 0xE x 0x9E
  | .opEXA1 x => encodeXNN 0xE x 0xA1
  | .opFX07 x => encodeXNN 0xF x 0x07
  | .opFX0A x => encodeXNN 0xF x 0x0A
  | .opFX15 x => encodeXNN 0xF x 0x15
  | .opFX18 x => encodeXNN 0xF x 0x18
  | .opFX1E x => encodeXNN 0xF x 0x1E
  | .opFX29 x => encodeXNN 0xF x 0x29
  | .opFX33 x => encodeXNN 0xF x 0x33
  | .opFX55 x => encodeXNN 0xF x 0x55
  | .opFX65 x => encodeXNN 0xF x 0x65

end Sys2Proof
end

