-- ==== Sys2Proof/Machine/State.lean ====
section
/-! DEFINITION. The state of the machine as plain data (10_state.md), its failures, and the state after reset (R40). -/

namespace Sys2Proof.Machine

/-- The four failures (60_exceptions.md R185), the values of the register `FAULT` (R29). A failing `step` event raises one
(`State.raise`), which RECORDS it in the state; the machine then goes on in the halted condition (R194), so no step answers
`Outcome.fault`: notes/assumptions/28, safe. -/
inductive Fault
  /-- R186: raised by fetch, DXYN, FX33, FX55 and FX65, with the lowest offending address. Safe: the spec's own failure. -/
  | outOfBounds (addr : Nat)
  /-- R187: raised by decode of an illegal word. Safe: the spec's own failure. -/
  | invalidOpcode (op : Word)
  /-- R188: raised by 2NNN on a full stack. Safe: the spec's own failure. -/
  | stackOverflow
  /-- R189: raised by 00EE on an empty stack. Safe: the spec's own failure. -/
  | stackUnderflow
deriving DecidableEq, Repr

/-- Why an instruction has no meaning. -/
inductive Refusal
  /-- Raised by an arm of `exec` whose instruction has no meaning yet; no arm does. Safe: the run stops. -/
  | notModelled (mnemonic : String)
deriving DecidableEq, Repr

/-- `MEM` (R32): the bytes that differ from the reset content, at strictly rising addresses. -/
abbrev Memory := List Host.Cell

/-- `DISP` (R34): 32 rows of 64 pixels, `true` is on. -/
abbrev Frame := Vector (Vector Bool 64) 32

/-- A timer register, `TIMER_WIDTH` bits (R26, R27). -/
abbrev Timer := BitVec Config.timerWidth

/-- `V0` to `VF` (R20). -/
abbrev RegFile := Vector Byte 16

/-- The five host events (00_scope.md R12), with what the host supplies to each. -/
inductive HostEvent
  | reset
  | load (bytes : List Byte)
  | step (keys : Word) (rnd : Byte)
  | deliverKey (k : BitVec 4)
  | tickTimers
deriving DecidableEq, Repr

/-- What a host event returns to the host (R39): `ok`, a failure of `step`, or the failure of `load` (R196), which
carries no address (R186). -/
inductive HostReply
  | ok
  | failure (f : Fault)
  | loadOutOfBounds
deriving DecidableEq, Repr

/-- The state tuple of 10_state.md, and the model's own two last fields. -/
structure State where
  /-- `V0` to `VF` (R20, R21). -/
  v : RegFile
  /-- `I` (R22). -/
  i : Word
  /-- `PC` (R23, R24). -/
  pc : Word
  /-- `STACK` and `SP` (R25): the live entries, NEWEST FIRST; `SP` is the length. notes/assumptions/13. -/
  stack : List Word
  /-- `DT` (R26). -/
  dt : Timer
  /-- `ST` (R27). -/
  st : Timer
  /-- `WAIT` (R28). -/
  wait : Bool
  /-- `WAITX` (R28). -/
  waitX : Reg
  /-- `FAULT` (R29). -/
  fault : Option Fault
  /-- `MEM` (R32). -/
  mem : Memory
  /-- `DISP` (R34). -/
  disp : Frame
  /-- The model's own: the host's next events, in order (R12, R111). When it is empty the host issues `step`, with free
  inputs. notes/assumptions/27. -/
  host : List HostEvent
  /-- The model's own: how many times an instruction has sampled `keys` or `rnd`; it numbers the free values.
  notes/assumptions/26. -/
  draws : Nat
deriving DecidableEq, Repr

/-- The machine right after `reset` (R40, R215). `MEM` lists nothing, so every byte reads as its reset content
(`Memory.unlisted`). The model's own fields: no event scheduled, no draw made (DESIGN CHOICE, notes/assumptions/26 and 27). -/
def State.reset : State where
  v := Vector.replicate 16 0
  i := 0x0000
  pc := 0x0200
  stack := []
  dt := 0x00
  st := 0x00
  wait := false
  waitX := 0
  fault := none
  mem := []
  disp := Vector.replicate 32 (Vector.replicate 64 false)
  host := []
  draws := 0

end Sys2Proof.Machine
end

