-- ==== Sys2Proof/Machine/Ops.lean ====
section
/-! DEFINITION. The shared operations: memory (20_memory.md), registers, the epilogue, the call stack, the frame, and taking
a failure (60_exceptions.md R190). -/

namespace Sys2Proof.Machine

/-! ### Memory -/

/-- What a byte reads as that nothing has written since reset (R32, R35): `FONT`, and `MEM_INIT` above it. -/
def Memory.unlisted (a : Nat) : Byte := Config.font.getD a Config.memInit

/-- The byte at an address. -/
def Memory.read : Memory → Nat → Byte
  | [], a => Memory.unlisted a
  | (b, w) :: rest, a => if a = b then w else Memory.read rest a

/-- `put a v m` has the entry of `a` in `m` replaced by what keeps the canonical form: none where `v` is the reset content. -/
def Memory.put (a : Nat) (v : Byte) : Memory → Memory
  | [] => if v = Memory.unlisted a then [] else [(a, v)]
  | (b, w) :: rest =>
    if a < b then (if v = Memory.unlisted a then (b, w) :: rest else (a, v) :: (b, w) :: rest)
    else if a = b then (if v = Memory.unlisted a then rest else (a, v) :: rest)
    else (b, w) :: Memory.put a v rest

/-- Store one byte (R55). There is no byte above 0xFFF (R56): a write there is dropped, and no operation makes one, since
every access is checked first (`State.checked`, `memRead`). notes/assumptions/29, safe. -/
def Memory.write (m : Memory) (a : Nat) (v : Byte) : Memory :=
  if a < Config.memSize then Memory.put a v m else m

/-- Consecutive stores from `base` upward, in ascending order. -/
def Memory.writeBlock (m : Memory) (base : Nat) : List Byte → Memory
  | [] => m
  | b :: rest => Memory.writeBlock (m.write base b) (base + 1) rest

/-- Consecutive reads from `base` upward, in ascending order. -/
def Memory.readBlock (m : Memory) (base : Nat) : Nat → List Byte
  | 0 => []
  | n + 1 => m.read base :: Memory.readBlock m (base + 1) n

/-- The first address of `m`, if any, is at least `lo`, the addresses rise strictly and stay below 4096, and no entry
repeats the reset content. -/
def Memory.wfFrom (lo : Nat) : Memory → Bool
  | [] => true
  | (a, v) :: rest =>
    decide (lo ≤ a) && decide (a < Config.memSize) && decide (v ≠ Memory.unlisted a) && Memory.wfFrom (a + 1) rest

/-- The canonical form of memory: equal memories are equal lists. -/
def Memory.wf (m : Memory) : Bool := Memory.wfFrom 0 m

/-- `MemRead(addr, 1)` (R10): `addr` is a natural number, not reduced (R54). UNVERIFIED (D18), safe: notes/assumptions/18. -/
def memRead (m : Memory) (addr : Nat) : Except Fault Byte :=
  if Config.memSize ≤ addr then .error (.outOfBounds addr) else .ok (m.read addr)

/-! ### Registers -/

/-- `V[r]` (R9). -/
def State.getV (s : State) (r : Reg) : Byte := s.v[r.val]

/-- `V[r] <- b` (R9). -/
def State.setV (s : State) (r : Reg) (b : Byte) : State := { s with v := s.v.set r.val b }

/-- All of `V` at once (FX65). -/
def State.setRegs (s : State) (v : RegFile) : State := { s with v := v }

/-- `I <- w`. -/
def State.setI (s : State) (w : Word) : State := { s with i := w }

/-- `PC <- w`. -/
def State.setPc (s : State) (w : Word) : State := { s with pc := w }

/-- `DT <- t`. -/
def State.setDt (s : State) (t : Timer) : State := { s with dt := t }

/-- `ST <- t`. -/
def State.setSt (s : State) (t : Timer) : State := { s with st := t }

/-- `MEM` replaced. -/
def State.setMem (s : State) (m : Memory) : State := { s with mem := m }

/-- `DISP` replaced. -/
def State.setDisp (s : State) (d : Frame) : State := { s with disp := d }

/-! ### Control -/

/-- The epilogue (R10, R104): `PC <- (PC + 2) mod 65536`. Each meaning that does not suppress it applies it last:
notes/assumptions/30, safe. -/
def State.advance (s : State) : State := { s with pc := s.pc + 2 }

/-- A skip's own conditional `PC <- (PC + 2) mod 65536`, before the epilogue (R125). -/
def State.skipIf (c : Bool) (s : State) : State := { s with pc := if c then s.pc + 2 else s.pc }

/-- Push on the call stack (R119). -/
def State.push (s : State) (w : Word) : State := { s with stack := w :: s.stack }

/-- The call stack replaced by what a pop leaves (R116). -/
def State.setStack (s : State) (st : List Word) : State := { s with stack := st }

/-- `SP` (R25). -/
def State.sp (s : State) : Nat := s.stack.length

/-- `STACK[k]` for `k < SP` (R25); entry 0 is the oldest. -/
def State.stackEntry (s : State) (k : Nat) : Option Word := s.stack.reverse[k]?

/-- Enter the blocked state of FX0A (R28, R177). -/
def State.block (s : State) (x : Reg) : State := { s with wait := true, waitX := x }

/-- Leave the blocked state (R109). -/
def State.unblock (s : State) : State := { s with wait := false }

/-- TAKING A FAILURE (R190): `FAULT` records it and nothing else changes; `PC` stays at the failing instruction.
UNVERIFIED (D8, D9), unsafe: notes/assumptions/8. -/
def State.raise (f : Fault) (s : State) : State := { s with fault := some f }

/-- The bounds check before an instruction's accesses to `len` bytes from `base` (R54, R186, R191): `done` where all lie in
0x000 to 0xFFF, else the failure with the lowest offending address. -/
def State.checked (s : State) (base len : Nat) (done : State) : State :=
  if 0 < len ∧ 0xFFF < base + len - 1 then s.raise (.outOfBounds (max base 0x1000)) else done

/-- A sampled input has been used (R37, R38): the next sample is a fresh draw. -/
def State.drawn (s : State) : State := { s with draws := s.draws + 1 }

/-- The host's schedule replaced. -/
def State.setHost (s : State) (h : List HostEvent) : State := { s with host := h }

/-! ### The frame -/

/-- The pixel in column `x`, row `y` (R34). -/
def Frame.pixel (d : Frame) (x : Fin 64) (y : Fin 32) : Bool := d[y.val][x.val]

/-- `DISP[y][x] <- DISP[y][x] XOR 1` (R168). -/
def Frame.toggle (d : Frame) (x : Fin 64) (y : Fin 32) : Frame :=
  d.set y.val (d[y.val].set x.val (!d[y.val][x.val]))

/-- The frame with every pixel off (R166). -/
def Frame.clear : Frame := Vector.replicate 32 (Vector.replicate 64 false)

/-- `DISP[y][x]`. -/
def State.pixel (s : State) (x : Fin 64) (y : Fin 32) : Bool := Frame.pixel s.disp x y

end Sys2Proof.Machine
end

