-- ==== Sys2Proof/Machine/Operands.lean ====
section
/-! DEFINITION. The operand forms (30_encoding.md R83, 44_index_memory.md R155): immediates, the block at `[I]`, the block
`V0` to `VX`, glyph addresses, decimal digits, key selection, frame coordinates, and the two sampled inputs. -/

namespace Sys2Proof.Machine

/-- `zext_16(NNN)` (R83). -/
def zext16 (nnn : BitVec 12) : Word := nnn.setWidth 16

/-- `zext_16(VX)`. -/
def zextByte (b : Byte) : Word := b.setWidth 16

/-- `zext_8(k)` of a key number (R109). -/
def zextKey (k : BitVec 4) : Byte := k.setWidth 8

/-- The key levels sampled by this step (R37): those of the scheduled step event, else a free value. -/
def State.sampledKeys (s : State) : Word :=
  match s.host with
  | .step keys _ :: _ => keys
  | _ => Config.freeKeys s.draws

/-- The random byte sampled by this step (R38): that of the scheduled step event, else a free value. -/
def State.sampledRnd (s : State) : Byte :=
  match s.host with
  | .step _ rnd :: _ => rnd
  | _ => Config.freeRnd s.draws

/-- `VX[3:0]` selects the key (R130, R131). UNVERIFIED (D14), unsafe: notes/assumptions/14. -/
def keyOf (b : Byte) : BitVec 4 := b.extractLsb' 0 4

/-- `keys[k] = 1` (R9). -/
def keyDown (keys : Word) (k : BitVec 4) : Bool := keys.getLsbD k.toNat

/-- The address of a glyph, `5 * VX` (R158): the whole byte is multiplied. -/
def glyphAddress (b : Byte) : Word := BitVec.ofNat 16 (5 * b.toNat)

/-- Hundreds, tens, units (R159). -/
def bcdDigits (b : Byte) : List Byte :=
  [BitVec.ofNat 8 (b.toNat / 100), BitVec.ofNat 8 (b.toNat / 10 % 10), BitVec.ofNat 8 (b.toNat % 10)]

/-- The values of `V0` to `VX`, `X + 1` of them (R160). -/
def State.firstRegs (s : State) (x : Reg) : List Byte := s.v.toList.take (x.val + 1)

/-- `V[k] <- MEM[base + k]` for `k` from 0 to `n - 1`, ascending (R161). -/
def loadRegs (m : Memory) (base : Nat) (v : RegFile) : Nat → RegFile
  | 0 => v
  | n + 1 => (loadRegs m base v n).setIfInBounds n (m.read (base + n))

/-- The sprite rows of DXYN, `MEM[I]` to `MEM[I + N - 1]` (R167). -/
def State.spriteRows (s : State) (n : BitVec 4) : List Byte := s.mem.readBlock s.i.toNat n.toNat

/-- `(x0 + c) mod 64` (R168). -/
def wrapColumn (x0 : Byte) (c : Nat) : Fin 64 := Fin.ofNat 64 (x0.toNat + c)

/-- `(y0 + r) mod 32` (R168). -/
def wrapRow (y0 : Byte) (r : Nat) : Fin 32 := Fin.ofNat 32 (y0.toNat + r)

end Sys2Proof.Machine
end

