-- ==== Sys2Proof/Machine/Flags.lean ====
section
/-! DEFINITION. Results and flags of register arithmetic (43_alu.md R135): exact arithmetic on naturals, narrowed at the
end. The only flag is register `VF` (10_state.md R21). -/

namespace Sys2Proof.Machine

/-- The number of the flag register `VF` (R21). -/
def flagReg : Reg := 15

/-- A flag as `VF` holds it: 0x00 or 0x01 (R21). -/
def flagByte (b : Bool) : Byte := if b then 1 else 0

/-- `(a + b) mod 256` (R135). -/
def addResult (a b : Byte) : Byte := BitVec.ofNat 8 (a.toNat + b.toNat)

/-- The carry out: `a + b > 255` (R135). -/
def addCarry (a b : Byte) : Bool := decide (255 < a.toNat + b.toNat)

/-- `(a - b) mod 256`, as `(a + 256 - b) mod 256` (R135). -/
def subResult (a b : Byte) : Byte := BitVec.ofNat 8 (a.toNat + 256 - b.toNat)

/-- Not borrow: `a >= b` (R135). -/
def notBorrow (a b : Byte) : Bool := decide (b.toNat ≤ a.toNat)

/-- `v div 2` (R135). -/
def shrResult (v : Byte) : Byte := BitVec.ofNat 8 (v.toNat / 2)

/-- The bit shifted out to the right: bit 0 (R135). -/
def shrOut (v : Byte) : Bool := v.getLsbD 0

/-- `(v * 2) mod 256` (R135). -/
def shlResult (v : Byte) : Byte := BitVec.ofNat 8 (v.toNat * 2)

/-- The bit shifted out to the left: bit 7 (R135). -/
def shlOut (v : Byte) : Bool := v.getLsbD 7

/-- `I + VX` kept to the 16 bits of `I` (R157). -/
def indexSum (i : Word) (b : Byte) : Word := BitVec.ofNat 16 (i.toNat + b.toNat)

/-- `I + VX > 0xFFF`, the flag of FX1E where `FX1E_VF` is true (R157). -/
def indexOverflow (i : Word) (b : Byte) : Bool := decide (0xFFF < i.toNat + b.toNat)

/-- `VF <- flag`. -/
def State.setFlag (s : State) (b : Bool) : State := s.setV flagReg (flagByte b)

/-- A result and then the flag (R136): where `X = F` the flag wins, being written last. UNVERIFIED (D6), unsafe:
notes/assumptions/6. -/
def State.setResultAndFlag (s : State) (x : Reg) (result : Byte) (flag : Bool) : State :=
  (s.setV x result).setFlag flag

end Sys2Proof.Machine
end

