-- ==== Sys2Proof/Machine/Alu.lean ====
section
/-! DEFINITION. Register load, arithmetic, logic, shift and random: 6XNN, 7XNN, 8XY0 to 8XYE, CXNN (43_alu.md R135 to
R148). Every operand is read before any write (R136; UNVERIFIED (D7), unsafe: notes/assumptions/7). -/

namespace Sys2Proof.Machine

/-- R137. -/
def exec6XNN (x : Reg) (nn : Byte) (s : State) : Host.Outcome State Fault Refusal :=
  .next (s.setV x nn).advance

/-- R138: no flag. -/
def exec7XNN (x : Reg) (nn : Byte) (s : State) : Host.Outcome State Fault Refusal :=
  .next (s.setV x (addResult (s.getV x) nn)).advance

/-- R139. -/
def exec8XY0 (x y : Reg) (s : State) : Host.Outcome State Fault Refusal :=
  .next (s.setV x (s.getV y)).advance

/-- R140: no flag. -/
def exec8XY1 (x y : Reg) (s : State) : Host.Outcome State Fault Refusal :=
  .next (s.setV x (s.getV x ||| s.getV y)).advance

/-- R141: no flag. -/
def exec8XY2 (x y : Reg) (s : State) : Host.Outcome State Fault Refusal :=
  .next (s.setV x (s.getV x &&& s.getV y)).advance

/-- R142: no flag. -/
def exec8XY3 (x y : Reg) (s : State) : Host.Outcome State Fault Refusal :=
  .next (s.setV x (s.getV x ^^^ s.getV y)).advance

/-- R143. -/
def exec8XY4 (x y : Reg) (s : State) : Host.Outcome State Fault Refusal :=
  .next (s.setResultAndFlag x (addResult (s.getV x) (s.getV y)) (addCarry (s.getV x) (s.getV y))).advance

/-- R144: `VX - VY`. -/
def exec8XY5 (x y : Reg) (s : State) : Host.Outcome State Fault Refusal :=
  .next (s.setResultAndFlag x (subResult (s.getV x) (s.getV y)) (notBorrow (s.getV x) (s.getV y))).advance

/-- R145: the operand shifted is `VY`. -/
def exec8XY6 (x y : Reg) (s : State) : Host.Outcome State Fault Refusal :=
  .next (s.setResultAndFlag x (shrResult (s.getV y)) (shrOut (s.getV y))).advance

/-- R146: `VY - VX`. -/
def exec8XY7 (x y : Reg) (s : State) : Host.Outcome State Fault Refusal :=
  .next (s.setResultAndFlag x (subResult (s.getV y) (s.getV x)) (notBorrow (s.getV y) (s.getV x))).advance

/-- R147: the operand shifted is `VY`. -/
def exec8XYE (x y : Reg) (s : State) : Host.Outcome State Fault Refusal :=
  .next (s.setResultAndFlag x (shlResult (s.getV y)) (shlOut (s.getV y))).advance

/-- R148: `rnd` is sampled by this step. -/
def execCXNN (x : Reg) (nn : Byte) (s : State) : Host.Outcome State Fault Refusal :=
  .next (s.setV x (s.sampledRnd &&& nn)).drawn.advance

end Sys2Proof.Machine
end

