-- ==== Sys2Proof/Machine/Display.lean ====
section
/-! DEFINITION. The display: 00E0 and DXYN (45_display.md R165 to R169). -/

namespace Sys2Proof.Machine

/-- One bit of a sprite onto the frame (R168), with the collision so far: a 1 bit toggles its pixel, and a pixel that was on
is a collision; a 0 bit does nothing. -/
def drawPixel (x0 y0 : Byte) (b : Byte) (r c : Nat) (acc : Frame × Bool) : Frame × Bool :=
  if b.getLsbD (7 - c) then
    (Frame.toggle acc.1 (wrapColumn x0 c) (wrapRow y0 r), acc.2 || Frame.pixel acc.1 (wrapColumn x0 c) (wrapRow y0 r))
  else acc

/-- One row byte, columns `c = 0` to `n - 1` in ascending order (R168); bit 7 is the leftmost pixel. -/
def drawColumns (x0 y0 : Byte) (b : Byte) (r : Nat) (acc : Frame × Bool) : Nat → Frame × Bool
  | 0 => acc
  | n + 1 => drawPixel x0 y0 b r n (drawColumns x0 y0 b r acc n)

/-- The rows of a sprite from row number `r` on, top row first (R168). -/
def drawRows (x0 y0 : Byte) (r : Nat) (acc : Frame × Bool) : List Byte → Frame × Bool
  | [] => acc
  | b :: rest => drawRows x0 y0 (r + 1) (drawColumns x0 y0 b r acc 8) rest

/-- `draw_sprite(x0, y0, rows)` (R168): the frame afterwards and the collision bit. -/
def drawSprite (x0 y0 : Byte) (rows : List Byte) (d : Frame) : Frame × Bool :=
  drawRows x0 y0 0 (d, false) rows

/-- DXYN once its accesses are known to be in range (R167): the frame, then `VF`. -/
def State.drawSpriteAt (s : State) (x y : Reg) (n : BitVec 4) : State :=
  let drawn := drawSprite (s.getV x) (s.getV y) (s.spriteRows n) s.disp
  (s.setDisp drawn.1).setFlag drawn.2

/-- R166. -/
def exec00E0 (s : State) : Host.Outcome State Fault Refusal :=
  .next (s.setDisp Frame.clear).advance

/-- R167: `N = 0` reads no memory and cannot fail. -/
def execDXYN (x y : Reg) (n : BitVec 4) (s : State) : Host.Outcome State Fault Refusal :=
  .next (s.checked s.i.toNat n.toNat (s.drawSpriteAt x y n).advance)

end Sys2Proof.Machine
end

