-- ==== Sys2Proof/Machine/Flow.lean ====
section
/-! DEFINITION. Control transfer: 00EE, 0NNN, 1NNN, 2NNN, BNNN (41_flow.md R115 to R120). -/

namespace Sys2Proof.Machine

/-- R116: pop; the epilogue adds 2 to the popped value (90_conflicts.md C2). -/
def exec00EE (s : State) : Host.Outcome State Fault Refusal :=
  match s.stack with
  | [] => .next (s.raise .stackUnderflow)
  | a :: rest => .next ((s.setStack rest).setPc a).advance

/-- R117: nothing but the epilogue; `NNN` is ignored. -/
def exec0NNN (_nnn : BitVec 12) (s : State) : Host.Outcome State Fault Refusal :=
  .next s.advance

/-- R118: the epilogue is suppressed. -/
def exec1NNN (nnn : BitVec 12) (s : State) : Host.Outcome State Fault Refusal :=
  .next (s.setPc (zext16 nnn))

/-- R119: pushes the address of the call itself; the epilogue is suppressed. A stack deeper than `STACK_DEPTH`, which no run
reaches, overflows too (notes/assumptions/13). -/
def exec2NNN (nnn : BitVec 12) (s : State) : Host.Outcome State Fault Refusal :=
  .next (if Config.stackDepth ≤ s.sp then s.raise .stackOverflow else (s.push s.pc).setPc (zext16 nnn))

/-- R120: always `V0`; the epilogue is suppressed. -/
def execBNNN (nnn : BitVec 12) (s : State) : Host.Outcome State Fault Refusal :=
  .next (s.setPc (zext16 nnn + zextByte (s.getV 0)))

end Sys2Proof.Machine
end

