-- ==== Sys2Proof/Machine/IndexMemory.lean ====
section
/-! DEFINITION. The address register and memory transfers: ANNN, FX1E, FX29, FX33, FX55, FX65 (44_index_memory.md R155 to
R161). The two conventions the source leaves open are arguments of the shared operations (00_scope.md R6), so that both are
defined; the meanings pass this hardware's. -/

namespace Sys2Proof.Machine

/-- FX1E for either value of `FX1E_VF` (R157). -/
def addToIndex (writeFlag : Bool) (x : Reg) (s : State) : State :=
  let t := s.setI (indexSum s.i (s.getV x))
  if writeFlag then t.setFlag (indexOverflow s.i (s.getV x)) else t

/-- What FX55 and FX65 leave in `I`, for either value of `I_INCREMENT` (R160, R161). -/
def State.stepIndex (increment : Bool) (x : Reg) (s : State) : State :=
  if increment then s.setI (BitVec.ofNat 16 (s.i.toNat + x.val + 1)) else s

/-- FX55 for either value of `I_INCREMENT` (R160). UNVERIFIED (D8), unsafe: notes/assumptions/8. -/
def storeRegisters (increment : Bool) (x : Reg) (s : State) : State :=
  s.checked s.i.toNat (x.val + 1)
    ((s.setMem (s.mem.writeBlock s.i.toNat (s.firstRegs x))).stepIndex increment x).advance

/-- FX65 for either value of `I_INCREMENT` (R161). -/
def loadRegisters (increment : Bool) (x : Reg) (s : State) : State :=
  s.checked s.i.toNat (x.val + 1)
    ((s.setRegs (loadRegs s.mem s.i.toNat s.v (x.val + 1))).stepIndex increment x).advance

/-- R156. -/
def execANNN (nnn : BitVec 12) (s : State) : Host.Outcome State Fault Refusal :=
  .next (s.setI (zext16 nnn)).advance

/-- R157, with this hardware's `FX1E_VF`. -/
def execFX1E (x : Reg) (s : State) : Host.Outcome State Fault Refusal :=
  .next (addToIndex Config.fx1eVf x s).advance

/-- R158: memory is not read. -/
def execFX29 (x : Reg) (s : State) : Host.Outcome State Fault Refusal :=
  .next (s.setI (glyphAddress (s.getV x))).advance

/-- R159: hundreds, tens, units at `I`, `I + 1`, `I + 2`. -/
def execFX33 (x : Reg) (s : State) : Host.Outcome State Fault Refusal :=
  .next (s.checked s.i.toNat 3 (s.setMem (s.mem.writeBlock s.i.toNat (bcdDigits (s.getV x)))).advance)

/-- R160, with this hardware's `I_INCREMENT`. -/
def execFX55 (x : Reg) (s : State) : Host.Outcome State Fault Refusal :=
  .next (storeRegisters Config.iIncrement x s)

/-- R161, with this hardware's `I_INCREMENT`. -/
def execFX65 (x : Reg) (s : State) : Host.Outcome State Fault Refusal :=
  .next (loadRegisters Config.iIncrement x s)

end Sys2Proof.Machine
end

