-- ==== Sys2Proof/Machine/Skip.lean ====
section
/-! DEFINITION. Conditional skips: 3XNN, 4XNN, 5XY0, 9XY0, EX9E, EXA1 (42_skip.md R125 to R131). -/

namespace Sys2Proof.Machine

/-- R126. -/
def exec3XNN (x : Reg) (nn : Byte) (s : State) : Host.Outcome State Fault Refusal :=
  .next (s.skipIf (s.getV x == nn)).advance

/-- R127. -/
def exec4XNN (x : Reg) (nn : Byte) (s : State) : Host.Outcome State Fault Refusal :=
  .next (s.skipIf (s.getV x != nn)).advance

/-- R128. -/
def exec5XY0 (x y : Reg) (s : State) : Host.Outcome State Fault Refusal :=
  .next (s.skipIf (s.getV x == s.getV y)).advance

/-- R129. -/
def exec9XY0 (x y : Reg) (s : State) : Host.Outcome State Fault Refusal :=
  .next (s.skipIf (s.getV x != s.getV y)).advance

/-- R130: `keys` is sampled once, by this step. -/
def execEX9E (x : Reg) (s : State) : Host.Outcome State Fault Refusal :=
  .next (s.skipIf (keyDown s.sampledKeys (keyOf (s.getV x)))).drawn.advance

/-- R131. -/
def execEXA1 (x : Reg) (s : State) : Host.Outcome State Fault Refusal :=
  .next (s.skipIf (!keyDown s.sampledKeys (keyOf (s.getV x)))).drawn.advance

end Sys2Proof.Machine
end

