-- ==== Sys2Proof/Machine/TimerKey.lean ====
section
/-! DEFINITION. Timers and the key wait: FX07, FX0A, FX15, FX18 (46_timer_key.md R175 to R179). -/

namespace Sys2Proof.Machine

/-- R176. -/
def execFX07 (x : Reg) (s : State) : Host.Outcome State Fault Refusal :=
  .next (s.setV x s.dt).advance

/-- R177: enters the blocked state; `VX` is written later, by `deliver_key`; the epilogue is suppressed. UNVERIFIED (D15),
unsafe: notes/assumptions/15. -/
def execFX0A (x : Reg) (s : State) : Host.Outcome State Fault Refusal :=
  .next (s.block x)

/-- R178. -/
def execFX15 (x : Reg) (s : State) : Host.Outcome State Fault Refusal :=
  .next (s.setDt (s.getV x)).advance

/-- R179. -/
def execFX18 (x : Reg) (s : State) : Host.Outcome State Fault Refusal :=
  .next (s.setSt (s.getV x)).advance

end Sys2Proof.Machine
end

