-- ==== Sys2Proof/Machine/HostEvents.lean ====
section
/-! DEFINITION. The host events that execute no instruction: `reset` (70_reset_and_hazards.md R215), `load`,
`deliver_key` and `tick_timers` (40_step_cycle.md R107 to R110), and what events return to the host (R39). -/

namespace Sys2Proof.Machine

/-- R215: every piece of the machine's state takes its reset value, whatever it was. The model's own two fields describe the
host, which goes on: they stay (notes/assumptions/22). -/
def State.resetEvent (s : State) : State := { State.reset with host := s.host, draws := s.draws }

/-- R107, R108: the image at 0x200 upward, and nothing else; one that is too long changes nothing. UNVERIFIED (D21), unsafe:
notes/assumptions/21. -/
def State.load (s : State) (bytes : List Byte) : State :=
  if bytes.length ≤ Config.programMax then s.setMem (s.mem.writeBlock Config.programOffset bytes) else s

/-- R107, R108, R196: what `load` returns. -/
def loadReply (bytes : List Byte) : HostReply :=
  if bytes.length ≤ Config.programMax then .ok else .loadOutOfBounds

/-- R109: completes the pending FX0A, if there is one; else the event is dropped. UNVERIFIED (D15, D16), unsafe:
notes/assumptions/15 and 16. -/
def State.deliverKey (s : State) (k : BitVec 4) : State :=
  if s.fault = none ∧ s.wait = true then (s.setV s.waitX (zextKey k)).advance.unblock else s

/-- One timer counted down, saturating at 0 (R110). -/
def countDown (t : Timer) : Timer := if t = 0 then 0 else t - 1

/-- R110: both timers, in every condition of the machine. UNVERIFIED (D20), unsafe: notes/assumptions/20. -/
def State.tickTimers (s : State) : State := { s with dt := countDown s.dt, st := countDown s.st }

/-- What a `step` returns, read off the state it leaves (R100, R101, R190). -/
def stepReply (t : State) : HostReply :=
  match t.fault with
  | none => .ok
  | some f => .failure f

/-- The numbers of R193 for the value of `FAULT`; no instruction can read them. -/
def faultCode : Option Fault → Nat
  | none => 0
  | some (.outOfBounds _) => 1
  | some (.invalidOpcode _) => 2
  | some .stackOverflow => 3
  | some .stackUnderflow => 4

end Sys2Proof.Machine
end

