-- ==== Sys2Proof/Machine/Cycle.lean ====
section
/-! DEFINITION. The step event (40_step_cycle.md R100 to R105) and the host's schedule of events (R12, R111). -/

namespace Sys2Proof.Machine

/-- Fetch (R102): `MemRead(PC, 2)` of R10, the byte at `PC` checked and read first. -/
def fetch (s : State) : Except Fault Word :=
  match memRead s.mem s.pc.toNat with
  | .error f => .error f
  | .ok hi =>
    match memRead s.mem (s.pc.toNat + 1) with
    | .error f => .error f
    | .ok lo => .ok (opcodeWord hi lo)

/-- The `step` event (R100): nothing while halted or blocked (R101), else fetch, decode, execute. A failure of fetch or
decode is taken like one of an instruction (R190, R192). -/
def stepEvent (s : State) : Host.Outcome State Fault Refusal :=
  if s.fault.isSome then .next s
  else if s.wait then .next s
  else
    match fetch s with
    | .error f => .next (s.raise f)
    | .ok op =>
      match decodeOp op with
      | none => .next (s.raise (.invalidOpcode op))
      | some i => exec i s

/-- One host event, an atomic transition of the state (R12). A `step` samples its inputs from the head of the schedule
(`State.sampledKeys`, `State.sampledRnd`). -/
def hostEvent (e : HostEvent) (s : State) : Host.Outcome State Fault Refusal :=
  match e with
  | .reset => .next s.resetEvent
  | .load bytes => .next (s.load bytes)
  | .step _ _ => stepEvent s
  | .deliverKey k => .next (s.deliverKey k)
  | .tickTimers => .next s.tickTimers

/-- The event is over: the schedule goes on with `rest`. -/
def finishEvent (rest : List HostEvent) : Host.Outcome State Fault Refusal → Host.Outcome State Fault Refusal
  | .next t => .next (t.setHost rest)
  | .fault f => .fault f
  | .refused r => .refused r

/-- The host's next event: the first of its schedule, or `step` where none is left. DESIGN CHOICE: notes/assumptions/27. -/
def nextEvent (s : State) : Host.Outcome State Fault Refusal :=
  match s.host with
  | [] => stepEvent s
  | e :: rest => finishEvent rest (hostEvent e s)

/-- Whether an event is a `step`. -/
def HostEvent.isStep : HostEvent → Bool
  | .step _ _ => true
  | .reset | .load _ | .deliverKey _ | .tickTimers => false

/-- The last address a fetch can start at (R102). -/
def lastFetch : Nat := 0xFFE

/-- `op` stored where the next step fetches it, and the machine made ready to fetch there: running, its next event a
`step`, `PC` at the first program address where no fetch could start. notes/assumptions/31. -/
def State.placeWord (s : State) (op : Word) : State :=
  let pc : Word := if s.pc.toNat ≤ lastFetch then s.pc else 0x0200
  { s with
    pc := pc
    wait := false
    fault := none
    mem := s.mem.writeBlock pc.toNat (wordBytes op)
    host := s.host.dropWhile (fun e => !e.isStep) }

end Sys2Proof.Machine
end

