-- ==== Sys2Proof/Machine/Step.lean ====
section
/-! DEFINITION. One step of the machine: the host's next event. -/

namespace Sys2Proof.Machine

/-- One host event (00_scope.md R12): a `step` event executes one instruction (40_step_cycle.md R100). -/
def step (s : State) : Host.Outcome State Fault Refusal := nextEvent s

/-- `s` with the word of an opcode-table row where `step` fetches its next instruction. -/
def State.withFetchWord (s : State) (nbits w : Nat) : State := s.placeWord (tableWord nbits w)

end Sys2Proof.Machine
end

