-- ==== Sys2Proof/Safety.lean ====
section
/-! DEFINITION. The terms claims are stated in: the conditions of the step machine (10_state.md R30), the invariant of the
machine, and what an instruction may change (40_step_cycle.md R106). -/

namespace Sys2Proof.Machine

/-! ### The conditions of the step machine -/

/-- `RUN` (R30). -/
def State.Running (s : State) : Prop := s.fault = none ∧ s.wait = false

/-- `BLOCKED` (R30). -/
def State.Blocked (s : State) : Prop := s.fault = none ∧ s.wait = true

/-- `HALTED` with failure `f` (R30). -/
def State.Halted (s : State) (f : Fault) : Prop := s.fault = some f

/-- The host's next event is a `step`: one heads the schedule, or the schedule is empty. -/
def State.StepIsNext (s : State) : Prop := ∀ e ∈ s.host.head?, e.isStep = true

/-- `op` as the two bytes at `PC` give it (R81). -/
def State.opAtPc (s : State) : Word := opcodeWord (s.mem.read s.pc.toNat) (s.mem.read (s.pc.toNat + 1))

/-! ### The invariant -/

/-- What a recorded failure says about the halted machine (R186 to R189). -/
def State.FaultFits (s : State) : Prop :=
  match s.fault with
  | none => True
  | some (.outOfBounds a) => 0x1000 ≤ a ∧ a ≤ 0xFFFF
  | some (.invalidOpcode op) => decodeOp op = none
  | some .stackOverflow => s.sp = Config.stackDepth
  | some .stackUnderflow => s.sp = 0

/-- The invariant of the machine: memory is canonical, the stack is at most `STACK_DEPTH` deep (R25) and holds addresses of
fetched instructions (R116), `PC` is at most 0x10FE (R24), a blocked core has not failed (R30) and stands at a fetched
instruction (R28), and a recorded failure is one the hardware can raise (R186 to R189). -/
structure State.Inv (s : State) : Prop where
  mem : s.mem.wf = true
  depth : s.sp ≤ Config.stackDepth
  entries : ∀ a ∈ s.stack, a.toNat ≤ 0xFFE
  pc : s.pc.toNat ≤ 0x10FE
  blocked : s.wait = true → s.fault = none ∧ s.pc.toNat ≤ 0xFFE
  fault : s.FaultFits

/-! ### Frames -/

/-- The parts of the state an instruction may change beside `PC`; the last two are the model's own. -/
inductive Part
  | regs | index | stack | delayTimer | soundTimer | wait | fault | memory | display | host | draws
deriving DecidableEq, Repr

/-- One part reads the same in `t` as in `s`: memory byte by byte, the frame pixel by pixel. -/
def Keeps (s t : State) : Part → Prop
  | .regs => ∀ r, t.getV r = s.getV r
  | .index => t.i = s.i
  | .stack => t.sp = s.sp ∧ ∀ k, t.stackEntry k = s.stackEntry k
  | .delayTimer => t.dt = s.dt
  | .soundTimer => t.st = s.st
  | .wait => t.wait = s.wait ∧ t.waitX = s.waitX
  | .fault => t.fault = s.fault
  | .memory => ∀ a, t.mem.read a = s.mem.read a
  | .display => ∀ x y, t.pixel x y = s.pixel x y
  | .host => t.host = s.host
  | .draws => t.draws = s.draws

/-- Every part but those listed reads the same. -/
def KeepsAllBut (parts : List Part) (s t : State) : Prop := ∀ p, p ∉ parts → Keeps s t p

/-- Every register but those listed reads the same. -/
def KeepsRegsBut (regs : List Reg) (s t : State) : Prop := ∀ r, r ∉ regs → t.getV r = s.getV r

/-- Every byte outside `len` bytes from `base` reads the same. -/
def KeepsMemoryOutside (base len : Nat) (s t : State) : Prop :=
  ∀ a, a < base ∨ base + len ≤ a → t.mem.read a = s.mem.read a

/-- R106 with the lists of R20 to R34: the parts each instruction may write, beside `PC`. `fault` is listed where the
instruction can fail (R192), `draws` where it samples an input (R37, R38). -/
def partsOf : Instr → List Part
  | .op00E0 => [.display]
  | .op00EE => [.stack, .fault]
  | .op0NNN _ => []
  | .op1NNN _ => []
  | .op2NNN _ => [.stack, .fault]
  | .op3XNN _ _ => []
  | .op4XNN _ _ => []
  | .op5XY0 _ _ => []
  | .op6XNN _ _ => [.regs]
  | .op7XNN _ _ => [.regs]
  | .op8XY0 _ _ => [.regs]
  | .op8XY1 _ _ => [.regs]
  | .op8XY2 _ _ => [.regs]
  | .op8XY3 _ _ => [.regs]
  | .op8XY4 _ _ => [.regs]
  | .op8XY5 _ _ => [.regs]
  | .op8XY6 _ _ => [.regs]
  | .op8XY7 _ _ => [.regs]
  | .op8XYE _ _ => [.regs]
  | .op9XY0 _ _ => []
  | .opANNN _ => [.index]
  | .opBNNN _ => []
  | .opCXNN _ _ => [.regs, .draws]
  | .opDXYN _ _ _ => [.regs, .display, .fault]
  | .opEX9E _ => [.draws]
  | .opEXA1 _ => [.draws]
  | .opFX07 _ => [.regs]
  | .opFX0A _ => [.wait]
  | .opFX15 _ => [.delayTimer]
  | .opFX18 _ => [.soundTimer]
  | .opFX1E _ => [.index]
  | .opFX29 _ => [.index]
  | .opFX33 _ => [.memory, .fault]
  | .opFX55 _ => [.memory, .fault]
  | .opFX65 _ => [.regs, .fault]

/-- R20 and R21: the `V` registers each instruction may write: its destinations, and `VF` for the flag writers. -/
def writesReg : Instr → Reg → Bool
  | .op00E0 => fun _ => false
  | .op00EE => fun _ => false
  | .op0NNN _ => fun _ => false
  | .op1NNN _ => fun _ => false
  | .op2NNN _ => fun _ => false
  | .op3XNN _ _ => fun _ => false
  | .op4XNN _ _ => fun _ => false
  | .op5XY0 _ _ => fun _ => false
  | .op6XNN x _ => fun r => r == x
  | .op7XNN x _ => fun r => r == x
  | .op8XY0 x _ => fun r => r == x
  | .op8XY1 x _ => fun r => r == x
  | .op8XY2 x _ => fun r => r == x
  | .op8XY3 x _ => fun r => r == x
  | .op8XY4 x _ => fun r => r == x || r == 15
  | .op8XY5 x _ => fun r => r == x || r == 15
  | .op8XY6 x _ => fun r => r == x || r == 15
  | .op8XY7 x _ => fun r => r == x || r == 15
  | .op8XYE x _ => fun r => r == x || r == 15
  | .op9XY0 _ _ => fun _ => false
  | .opANNN _ => fun _ => false
  | .opBNNN _ => fun _ => false
  | .opCXNN x _ => fun r => r == x
  | .opDXYN _ _ _ => fun r => r == 15
  | .opEX9E _ => fun _ => false
  | .opEXA1 _ => fun _ => false
  | .opFX07 x => fun r => r == x
  | .opFX0A _ => fun _ => false
  | .opFX15 _ => fun _ => false
  | .opFX18 _ => fun _ => false
  | .opFX1E _ => fun _ => false
  | .opFX29 _ => fun _ => false
  | .opFX33 _ => fun _ => false
  | .opFX55 _ => fun _ => false
  | .opFX65 x => fun r => decide (r ≤ x)

/-- The sprite bit that DXYN lays on the pixel in column `px`, row `py` (R168): that of the row `r` and column `c` with
`px = (VX + c) mod 64` and `py = (VY + r) mod 32`, if `c < 8` and `r < N`. -/
def spriteBit (s : State) (x y : Reg) (n : BitVec 4) (px : Fin 64) (py : Fin 32) : Bool :=
  let c := (px.val + 256 - (s.getV x).toNat) % 64
  let r := (py.val + 256 - (s.getV y).toNat) % 32
  decide (c < 8) && decide (r < n.toNat) && (s.mem.read (s.i.toNat + r)).getLsbD (7 - c)

end Sys2Proof.Machine
end

