-- ==== Sys2Proof/Certificates/Slice0/Obligations.lean ====
section
/-! DEFINITION. The statements for the provers. Arithmetic is said in natural numbers, the frame by `KeepsAllBut` and
`KeepsRegsBut` (Safety.lean), `a` in the comments being `PC` before the instruction. -/

open Sys2Proof Sys2Proof.Machine

/-! ### Encoding -/

/-- Words written out from the table of R86: R94's three examples, vector E1, and the priority inside `n0 = 0` (R84). That
the first byte is the high one is the spec's decision D1 (notes/assumptions/1). -/
def Obligations.SampleWordsDecodeAsTheTableSays : Prop :=
  decode [0x83, 0x44] = .ok (.op8XY4 3 4, []) ∧
  decode [0xD0, 0x15] = .ok (.opDXYN 0 1 5, []) ∧
  decode [0xFA, 0x0A] = .ok (.opFX0A 10, []) ∧
  decode [0xA1, 0x23] = .ok (.opANNN 0x123, []) ∧
  decode [0x00, 0xE0] = .ok (.op00E0, []) ∧
  decode [0x00, 0xEE] = .ok (.op00EE, []) ∧
  decode [0x00, 0xE1] = .ok (.op0NNN 0x0E1, []) ∧
  decode [0xFF, 0xFF] = .error (.invalidOpcode 0xFFFF)

/-- R82, R84, R86: decoding the two bytes of any well-formed instruction, with whatever follows them, gives it back. The
order of the two bytes is the spec's decision D1 (notes/assumptions/1). -/
def Obligations.DecodeOfEncodeIsTheInstruction : Prop :=
  ∀ (i : Instr) (rest : List Byte), i.wf = true →
    decodeOp (encode i) = some i ∧ decode (wordBytes (encode i) ++ rest) = .ok (i, rest)

/-- R89: every word that decodes is the encoding of what it decodes to, and of nothing else; no bit is dropped. -/
def Obligations.EncodeOfDecodeIsTheWord : Prop :=
  ∀ (op : Word) (i : Instr), decodeOp op = some i → encode i = op ∧ i.wf = true

/-- The illegal set, complete, as the table of R87 lists it. -/
def Obligations.IllegalWordsAreThoseListed : Prop :=
  ∀ op : Word, decodeOp op = none ↔
    (op.toNat / 0x1000 = 0x5 ∧ op.toNat % 16 ≠ 0) ∨
    (op.toNat / 0x1000 = 0x8 ∧ op.toNat % 16 ∈ [0x8, 0x9, 0xA, 0xB, 0xC, 0xD, 0xF]) ∨
    (op.toNat / 0x1000 = 0x9 ∧ op.toNat % 16 ≠ 0) ∨
    (op.toNat / 0x1000 = 0xE ∧ op.toNat % 256 ∉ [0x9E, 0xA1]) ∨
    (op.toNat / 0x1000 = 0xF ∧ op.toNat % 256 ∉ [0x07, 0x0A, 0x15, 0x18, 0x1E, 0x29, 0x33, 0x55, 0x65])

/-! ### The step event -/

/-- R100: a running core executes the instruction its two bytes at `PC` decode to; where the host scheduled the step, the
schedule then goes on (the model's choice, notes/assumptions/27). `exec` is the whole instruction, its epilogue included
(the model's choice, notes/assumptions/30); the byte order of the word is the spec's decision D1 (notes/assumptions/1). -/
def Obligations.StepExecutesTheDecodedInstruction : Prop :=
  ∀ (s : State) (i : Instr), s.Running → s.pc.toNat ≤ 0xFFE → decodeOp s.opAtPc = some i →
    (s.host = [] → step s = exec i s) ∧
    (∀ keys rnd rest t, s.host = .step keys rnd :: rest → exec i s = .next t → step s = .next (t.setHost rest))

/-- R102: above 0xFFE no fetch succeeds; the failure carries the lowest offending address (the spec's decision D18), and the
core halts at the same `PC`. -/
def Obligations.FetchOutsideMemoryHaltsWithTheAddress : Prop :=
  ∀ s : State, s.Running → s.StepIsNext → 0xFFE < s.pc.toNat →
    step s = .next { s with
      fault := some (.outOfBounds (if 0xFFF < s.pc.toNat then s.pc.toNat else 0x1000)), host := s.host.tail }

/-- R103, R187: an illegal word halts the core with that word as the failure's information (the spec's decision D19). -/
def Obligations.IllegalWordHaltsWithTheWord : Prop :=
  ∀ s : State, s.Running → s.StepIsNext → s.pc.toNat ≤ 0xFFE → decodeOp s.opAtPc = none →
    step s = .next { s with fault := some (.invalidOpcode s.opAtPc), host := s.host.tail }

/-- R101: a step of a blocked core changes nothing and returns `ok`; a step of a halted core changes nothing and returns the
recorded failure (the spec's decisions D9, D25). -/
def Obligations.StepWhileBlockedOrHaltedChangesNothing : Prop :=
  ∀ s : State, s.StepIsNext →
    (s.Blocked → step s = .next { s with host := s.host.tail } ∧ stepReply s = .ok) ∧
    (∀ f, s.Halted f → step s = .next { s with host := s.host.tail } ∧ stepReply s = .failure f)

/-- R194, R195, R29: while halted, nothing but `reset` clears the failure, and until then nothing but `load` and
`tick_timers` has an effect (the spec's decision D9). -/
def Obligations.OnlyResetClearsAFailure : Prop :=
  ∀ (s t : State) (f : Fault), s.Halted f → s.host.head? ≠ some .reset → step s = .next t →
    t.Halted f ∧ t.pc = s.pc ∧ KeepsAllBut [.delayTimer, .soundTimer, .memory, .host] s t ∧
    ((∀ bytes, s.host.head? ≠ some (.load bytes)) → t.mem = s.mem) ∧
    (s.host.head? ≠ some .tickTimers → t.dt = s.dt ∧ t.st = s.st)

/-- R105, R190, R191: whatever instruction fails and why, the failing step changes `FAULT` and nothing else (the spec's
decision D8). -/
def Obligations.AFailingStepChangesOnlyTheFault : Prop :=
  ∀ (s t : State) (f : Fault), s.fault = none → step s = .next t → t.fault = some f →
    t = { s with fault := some f, host := s.host.tail }

/-- R106 over the lists of R20 to R34 (`partsOf`): no instruction changes a part it is not listed for. That FX1E writes `I`
alone and that FX55 and FX65 leave `I` are the spec's decisions D5 and D4 (notes/assumptions/5 and 4); the parts `host` and
`draws` are the model's own (the model's choice, notes/assumptions/27 and 26). -/
def Obligations.OnlyListedInstructionsWriteEachPart : Prop :=
  ∀ (i : Instr) (s t : State), exec i s = .next t → KeepsAllBut (partsOf i) s t

/-- R20, R21 (`writesReg`): an instruction changes only its destination registers and, for the flag writers, `VF`; where the
step does not fail, every flag writer leaves 0 or 1 there. That this holds where `X = F`, the flag winning, is the spec's decision
D6, and that FX1E writes no register is D5 (notes/assumptions/6 and 5). -/
def Obligations.RegistersChangeOnlyAsDestinationOrFlag : Prop :=
  ∀ (i : Instr) (s t : State), exec i s = .next t →
    (∀ r, writesReg i r = false → t.getV r = s.getV r) ∧
    (∀ x y, i = .op8XY4 x y ∨ i = .op8XY5 x y ∨ i = .op8XY6 x y ∨ i = .op8XY7 x y ∨ i = .op8XYE x y →
      t.getV 15 = 0 ∨ t.getV 15 = 1) ∧
    (∀ x y n, i = .opDXYN x y n → s.fault = none → t.fault = none → t.getV 15 = 0 ∨ t.getV 15 = 1)

/-- R100, R12: every instruction in every state, and every step of every state, has a next state: no run of the machine ends
in a refusal, and a failure is recorded in a next state (the model's choice, notes/assumptions/28). -/
def Obligations.EveryInstructionAndStepHasANextState : Prop :=
  (∀ (i : Instr) (s : State), ∃ t, exec i s = .next t) ∧ ∀ s : State, ∃ t, step s = .next t

/-- Every event, whatever the host schedules, keeps the invariant of the machine (`State.Inv`). Its depth of 16, the call
addresses on the stack, the sticky failure and its address are the spec's decisions D3, D13, D9, D18 and D19
(notes/assumptions/3, 13, 9, 18, 19); the canonical form of memory is the model's. -/
def Obligations.EveryStepKeepsTheMachineInvariant : Prop :=
  ∀ s t : State, s.Inv → step s = .next t → t.Inv

/-- The invariant holds after reset. -/
def Obligations.ResetMeetsTheMachineInvariant : Prop := State.reset.Inv

/-- R37, R38: no instruction but EX9E, EXA1 and CXNN depends on the inputs the host samples into a step; the key tests do
not depend on `rnd`, and CXNN does not depend on `keys`. -/
def Obligations.InputsReachOnlyTheirInstructions : Prop :=
  (∀ (i : Instr) (s t : State) (h : List HostEvent) (d : Nat),
    (∀ x, i ≠ .opEX9E x ∧ i ≠ .opEXA1 x) → (∀ x nn, i ≠ .opCXNN x nn) → exec i s = .next t →
      exec i { s with host := h, draws := d } = .next { t with host := h, draws := d }) ∧
  (∀ (s t : State) (i : Instr) (x : Reg) (keys : Word) (rnd rnd' : Byte) (rest : List HostEvent),
    i = .opEX9E x ∨ i = .opEXA1 x → exec i { s with host := .step keys rnd :: rest } = .next t →
      exec i { s with host := .step keys rnd' :: rest } = .next { t with host := .step keys rnd' :: rest }) ∧
  (∀ (s t : State) (x : Reg) (nn : Byte) (keys keys' : Word) (rnd : Byte) (rest : List HostEvent),
    exec (.opCXNN x nn) { s with host := .step keys rnd :: rest } = .next t →
      exec (.opCXNN x nn) { s with host := .step keys' rnd :: rest } =
        .next { t with host := .step keys' rnd :: rest })

/-! ### Reset and the host events -/

/-- R40, R215: the reset value of every piece of state, at `State.reset` and after the event `reset` in any state. The
values of `MEM` from 0x050, the timers, the stack, `WAIT` and `FAULT` are the spec's decisions D9, D10, D12, D13, D15, the
glyph bytes are D11, and that the event restores memory and all else from any state is D22 (notes/assumptions/9 to 13, 15,
22). -/
def Obligations.ResetGivesEveryPieceOfStateItsValue : Prop :=
  ∀ s : State, ∃ u, hostEvent .reset s = .next u ∧ ∀ t : State, t = u ∨ t = State.reset →
    (∀ r, t.getV r = 0) ∧ t.i.toNat = 0 ∧ t.pc.toNat = 0x200 ∧ t.sp = 0 ∧ t.dt = 0 ∧ t.st = 0 ∧
    t.wait = false ∧ t.waitX = 0 ∧ t.fault = none ∧
    (∀ a : Fin 80, t.mem.read a = Config.font[a]) ∧ (∀ a, 0x050 ≤ a → a ≤ 0xFFF → t.mem.read a = 0x00) ∧
    ∀ x y, t.pixel x y = false

/-- R107: byte `i` of an image of at most 3584 bytes stands at `0x200 + i`, and nothing else changes, in any condition of
the machine (the spec's decision D21). -/
def Obligations.LoadPlacesTheImageAndNothingElse : Prop :=
  ∀ (s : State) (bytes : List Byte), s.mem.wf = true → bytes.length ≤ 3584 → loadReply bytes = .ok ∧
    ∃ t, hostEvent (.load bytes) s = .next t ∧
      (∀ k, (h : k < bytes.length) → t.mem.read (0x200 + k) = bytes[k]) ∧
      KeepsMemoryOutside 0x200 bytes.length s t ∧ t.pc = s.pc ∧ KeepsAllBut [.memory] s t

/-- R108. -/
def Obligations.LoadOfTooLongAnImageChangesNothing : Prop :=
  ∀ (s : State) (bytes : List Byte), 3584 < bytes.length →
    hostEvent (.load bytes) s = .next s ∧ loadReply bytes = .loadOutOfBounds

/-- R109: a delivered key completes the pending FX0A, and without one the event is dropped (the spec's decisions D15 and
D16). -/
def Obligations.DeliverKeyCompletesOnlyAPendingWait : Prop :=
  ∀ (s : State) (k : BitVec 4),
    (s.Blocked → ∃ t, hostEvent (.deliverKey k) s = .next t ∧ (t.getV s.waitX).toNat = k.toNat ∧ t.pc = s.pc + 2 ∧
      t.wait = false ∧ t.waitX = s.waitX ∧ KeepsRegsBut [s.waitX] s t ∧ KeepsAllBut [.regs, .wait] s t) ∧
    (¬ s.Blocked → hostEvent (.deliverKey k) s = .next s)

/-- R110: both timers count down and stop at 0, in any condition of the machine (the spec's decision D20). -/
def Obligations.TickTimersCountsBothTimersDown : Prop :=
  ∀ s : State, ∃ t, hostEvent .tickTimers s = .next t ∧ t.dt.toNat = s.dt.toNat - 1 ∧ t.st.toNat = s.st.toNat - 1 ∧
    t.pc = s.pc ∧ KeepsAllBut [.delayTimer, .soundTimer] s t

/-- R12, R111: the events of the host's schedule happen one a step, in order (the model's choice, notes/assumptions/27). -/
def Obligations.ScheduledEventsHappenInOrder : Prop :=
  ∀ (s : State) (e : HostEvent) (rest : List HostEvent), s.host = e :: rest →
    ∃ t, hostEvent e s = .next t ∧ step s = .next { t with host := rest } ∧ t.host = s.host

/-! ### Control transfer -/

/-- R116: the newest entry is popped and control goes on after the 2NNN that pushed it; with an empty stack,
`StackUnderflow`. -/
def Obligations.ReturnPopsTheCallAddressAndGoesOnAfterIt : Prop :=
  (∀ s : State, 0 < s.sp → ∃ a t, s.stackEntry (s.sp - 1) = some a ∧ exec .op00EE s = .next t ∧
    t.pc = a + 2 ∧ t.sp = s.sp - 1 ∧ (∀ k, k < t.sp → t.stackEntry k = s.stackEntry k) ∧ KeepsAllBut [.stack] s t) ∧
  (∀ s : State, s.sp = 0 → exec .op00EE s = .next { s with fault := some .stackUnderflow })

/-- R117: a no-op for every `NNN`. -/
def Obligations.LegacyCallOnlyAdvances : Prop :=
  ∀ (nnn : BitVec 12) (s : State), ∃ t, exec (.op0NNN nnn) s = .next t ∧ t.pc = s.pc + 2 ∧ KeepsAllBut [] s t

/-- R118 and R120: `PC` is `NNN` exactly, or `NNN + V0`, with no epilogue; nothing else changes. -/
def Obligations.JumpsReplaceThePc : Prop :=
  ∀ (nnn : BitVec 12) (s : State),
    (∃ t, exec (.op1NNN nnn) s = .next t ∧ t.pc.toNat = nnn.toNat ∧ KeepsAllBut [] s t) ∧
    (∃ t, exec (.opBNNN nnn) s = .next t ∧ t.pc.toNat = nnn.toNat + (s.getV 0).toNat ∧ KeepsAllBut [] s t)

/-- R119: the address of the call itself is pushed; the call on a full stack, 16 deep (the spec's decision D3), is
`StackOverflow`. -/
def Obligations.CallPushesItsOwnAddress : Prop :=
  (∀ (nnn : BitVec 12) (s : State), s.sp < 16 → ∃ t, exec (.op2NNN nnn) s = .next t ∧ t.pc.toNat = nnn.toNat ∧
    t.sp = s.sp + 1 ∧ t.stackEntry s.sp = some s.pc ∧ (∀ k, k < s.sp → t.stackEntry k = s.stackEntry k) ∧
    KeepsAllBut [.stack] s t) ∧
  (∀ (nnn : BitVec 12) (s : State), s.sp = 16 →
    exec (.op2NNN nnn) s = .next { s with fault := some .stackOverflow })

/-- R119 with R116: a return executed in the state a call leaves, wherever `PC` has gone meanwhile, lands after the call with
the stack as it was (90_conflicts.md C2). -/
def Obligations.ReturnUndoesCall : Prop :=
  ∀ (nnn : BitVec 12) (s : State) (w : Word), s.sp < 16 →
    ∃ t u, exec (.op2NNN nnn) s = .next t ∧ exec .op00EE (t.setPc w) = .next u ∧ u.pc = s.pc + 2 ∧ KeepsAllBut [] s u

/-! ### Skips -/

/-- R126 to R129: `a + 4` where the condition holds and `a + 2` where not; nothing else changes. -/
def Obligations.RegisterSkipsMoveThePcByFourOrTwo : Prop :=
  ∀ (x y : Reg) (nn : Byte) (s : State),
    (∃ t, exec (.op3XNN x nn) s = .next t ∧ t.pc = s.pc + (if s.getV x = nn then 4 else 2) ∧ KeepsAllBut [] s t) ∧
    (∃ t, exec (.op4XNN x nn) s = .next t ∧ t.pc = s.pc + (if s.getV x = nn then 2 else 4) ∧ KeepsAllBut [] s t) ∧
    (∃ t, exec (.op5XY0 x y) s = .next t ∧ t.pc = s.pc + (if s.getV x = s.getV y then 4 else 2) ∧ KeepsAllBut [] s t) ∧
    (∃ t, exec (.op9XY0 x y) s = .next t ∧ t.pc = s.pc + (if s.getV x = s.getV y then 2 else 4) ∧ KeepsAllBut [] s t)

/-- R130, R131: the key is selected by the low four bits of `VX` (the spec's decision D14) in the levels of this very step.
Where the host scheduled the step the levels are those it gave, else any (a free value, notes/assumptions/26). -/
def Obligations.KeySkipsTestTheSampledLevel : Prop :=
  ∀ (x : Reg) (s : State), ∃ keys : Word, (∀ k r rest, s.host = .step k r :: rest → keys = k) ∧
    (∃ t, exec (.opEX9E x) s = .next t ∧
      t.pc = s.pc + (if keys.getLsbD ((s.getV x).toNat % 16) = true then 4 else 2) ∧ KeepsAllBut [.draws] s t) ∧
    (∃ t, exec (.opEXA1 x) s = .next t ∧
      t.pc = s.pc + (if keys.getLsbD ((s.getV x).toNat % 16) = true then 2 else 4) ∧ KeepsAllBut [.draws] s t)

/-! ### Register load, arithmetic, logic, shifts, random -/

/-- R137, R138: load and add immediate; modulo 256, no flag: `VF` changes only as the named destination. -/
def Obligations.ImmediateLoadAndAddSetTheRegisterOnly : Prop :=
  ∀ (x : Reg) (nn : Byte) (s : State),
    (∃ t, exec (.op6XNN x nn) s = .next t ∧ t.getV x = nn ∧ t.pc = s.pc + 2 ∧
      KeepsRegsBut [x] s t ∧ KeepsAllBut [.regs] s t) ∧
    (∃ t, exec (.op7XNN x nn) s = .next t ∧ (t.getV x).toNat = ((s.getV x).toNat + nn.toNat) % 256 ∧ t.pc = s.pc + 2 ∧
      KeepsRegsBut [x] s t ∧ KeepsAllBut [.regs] s t)

/-- R139 to R142: copy, and OR, AND, XOR bit by bit; no flag. -/
def Obligations.CopyAndLogicSetTheRegisterOnly : Prop :=
  ∀ (x y : Reg) (s : State),
    (∃ t, exec (.op8XY0 x y) s = .next t ∧ t.getV x = s.getV y ∧ t.pc = s.pc + 2 ∧
      KeepsRegsBut [x] s t ∧ KeepsAllBut [.regs] s t) ∧
    (∃ t, exec (.op8XY1 x y) s = .next t ∧
      (∀ k, (t.getV x).getLsbD k = ((s.getV x).getLsbD k || (s.getV y).getLsbD k)) ∧ t.pc = s.pc + 2 ∧
      KeepsRegsBut [x] s t ∧ KeepsAllBut [.regs] s t) ∧
    (∃ t, exec (.op8XY2 x y) s = .next t ∧
      (∀ k, (t.getV x).getLsbD k = ((s.getV x).getLsbD k && (s.getV y).getLsbD k)) ∧ t.pc = s.pc + 2 ∧
      KeepsRegsBut [x] s t ∧ KeepsAllBut [.regs] s t) ∧
    (∃ t, exec (.op8XY3 x y) s = .next t ∧
      (∀ k, (t.getV x).getLsbD k = ((s.getV x).getLsbD k ^^ (s.getV y).getLsbD k)) ∧ t.pc = s.pc + 2 ∧
      KeepsRegsBut [x] s t ∧ KeepsAllBut [.regs] s t)

/-- R143: the sum modulo 256, and in `VF` the carry. By R136, the spec's decisions D6 and D7 (notes/assumptions/6 and 7),
the carry is written last, so that where `X = F` it is what `VF` holds, and the operands are the old ones, also where
`Y = F`. -/
def Obligations.AddSetsTheSumAndTheCarry : Prop :=
  ∀ (x y : Reg) (s : State), ∃ t, exec (.op8XY4 x y) s = .next t ∧
    (x ≠ 15 → (t.getV x).toNat = ((s.getV x).toNat + (s.getV y).toNat) % 256) ∧
    (t.getV 15).toNat = (if 255 < (s.getV x).toNat + (s.getV y).toNat then 1 else 0) ∧
    t.pc = s.pc + 2 ∧ KeepsRegsBut [x, 15] s t ∧ KeepsAllBut [.regs] s t

/-- R144, R146: the difference modulo 256, `VX - VY` and `VY - VX`, and in `VF` not-borrow. By R136, the spec's decisions D6
and D7 (notes/assumptions/6 and 7), the flag is written last and wins where `X = F`, and the operands are the old ones, also
where `Y = F`. -/
def Obligations.SubtractionsSetTheDifferenceAndNotBorrow : Prop :=
  ∀ (x y : Reg) (s : State),
    (∃ t, exec (.op8XY5 x y) s = .next t ∧
      (x ≠ 15 → (t.getV x).toNat = ((s.getV x).toNat + 256 - (s.getV y).toNat) % 256) ∧
      (t.getV 15).toNat = (if (s.getV x).toNat < (s.getV y).toNat then 0 else 1) ∧
      t.pc = s.pc + 2 ∧ KeepsRegsBut [x, 15] s t ∧ KeepsAllBut [.regs] s t) ∧
    (∃ t, exec (.op8XY7 x y) s = .next t ∧
      (x ≠ 15 → (t.getV x).toNat = ((s.getV y).toNat + 256 - (s.getV x).toNat) % 256) ∧
      (t.getV 15).toNat = (if (s.getV y).toNat < (s.getV x).toNat then 0 else 1) ∧
      t.pc = s.pc + 2 ∧ KeepsRegsBut [x, 15] s t ∧ KeepsAllBut [.regs] s t)

/-- R145, R147: `VY` shifted by one into `VX`, and in `VF` the bit shifted out. By R136, the spec's decisions D6 and D7
(notes/assumptions/6 and 7), the flag is written last and wins where `X = F`, and `VY` is the old one, also where
`Y = F`. -/
def Obligations.ShiftsMoveVYByOneAndKeepTheBitShiftedOut : Prop :=
  ∀ (x y : Reg) (s : State),
    (∃ t, exec (.op8XY6 x y) s = .next t ∧ (x ≠ 15 → (t.getV x).toNat = (s.getV y).toNat / 2) ∧
      (t.getV 15).toNat = (s.getV y).toNat % 2 ∧
      t.pc = s.pc + 2 ∧ KeepsRegsBut [x, 15] s t ∧ KeepsAllBut [.regs] s t) ∧
    (∃ t, exec (.op8XYE x y) s = .next t ∧ (x ≠ 15 → (t.getV x).toNat = (s.getV y).toNat * 2 % 256) ∧
      (t.getV 15).toNat = (s.getV y).toNat / 128 ∧
      t.pc = s.pc + 2 ∧ KeepsRegsBut [x, 15] s t ∧ KeepsAllBut [.regs] s t)

/-- R148: the random byte of this step, masked. Where the host scheduled the step the byte is the one it gave, else any (a
free value, notes/assumptions/26; the spec's decision D17). -/
def Obligations.RandomIsTheSampledByteMasked : Prop :=
  ∀ (x : Reg) (nn : Byte) (s : State), ∃ rnd : Byte, (∀ k r rest, s.host = .step k r :: rest → rnd = r) ∧
    ∃ t, exec (.opCXNN x nn) s = .next t ∧ (∀ k, (t.getV x).getLsbD k = (rnd.getLsbD k && nn.getLsbD k)) ∧
      t.pc = s.pc + 2 ∧ KeepsRegsBut [x] s t ∧ KeepsAllBut [.regs, .draws] s t

/-! ### The address register and memory -/

/-- R156, R158: `I` is `NNN`, or five times the whole of `VX`; memory is not touched. -/
def Obligations.IndexLoadsSetI : Prop :=
  ∀ (nnn : BitVec 12) (x : Reg) (s : State),
    (∃ t, exec (.opANNN nnn) s = .next t ∧ t.i.toNat = nnn.toNat ∧ t.pc = s.pc + 2 ∧ KeepsAllBut [.index] s t) ∧
    (∃ t, exec (.opFX29 x) s = .next t ∧ t.i.toNat = 5 * (s.getV x).toNat ∧ t.pc = s.pc + 2 ∧ KeepsAllBut [.index] s t)

/-- R157 with `FX1E_VF` false, the spec's decision D5: the sum in the 16 bits of `I`, and no flag. -/
def Obligations.AddToIndexWrapsAndWritesNoFlag : Prop :=
  ∀ (x : Reg) (s : State), ∃ t, exec (.opFX1E x) s = .next t ∧
    t.i.toNat = (s.i.toNat + (s.getV x).toNat) % 65536 ∧ t.pc = s.pc + 2 ∧ KeepsAllBut [.index] s t

/-- R159: the decimal digits of `VX` at `I`, `I + 1`, `I + 2`, where all three lie in memory. -/
def Obligations.BcdStoresTheThreeDigits : Prop :=
  ∀ (x : Reg) (s : State), s.mem.wf = true → s.i.toNat + 2 ≤ 0xFFF → ∃ t, exec (.opFX33 x) s = .next t ∧
    (t.mem.read s.i.toNat).toNat = (s.getV x).toNat / 100 ∧
    (t.mem.read (s.i.toNat + 1)).toNat = (s.getV x).toNat / 10 % 10 ∧
    (t.mem.read (s.i.toNat + 2)).toNat = (s.getV x).toNat % 10 ∧
    KeepsMemoryOutside s.i.toNat 3 s t ∧ t.pc = s.pc + 2 ∧ KeepsAllBut [.memory] s t

/-- R160 with `I_INCREMENT` false, the spec's decision D4: `V0` to `VX` at `I` upward, where all lie in memory. -/
def Obligations.StoreRegistersCopiesV0ToVX : Prop :=
  ∀ (x : Reg) (s : State), s.mem.wf = true → s.i.toNat + x.val ≤ 0xFFF → ∃ t, exec (.opFX55 x) s = .next t ∧
    (∀ r : Reg, r ≤ x → t.mem.read (s.i.toNat + r.val) = s.getV r) ∧
    KeepsMemoryOutside s.i.toNat (x.val + 1) s t ∧ t.pc = s.pc + 2 ∧ KeepsAllBut [.memory] s t

/-- R161 with `I_INCREMENT` false, the spec's decision D4: memory from `I` upward into `V0` to `VX`. -/
def Obligations.LoadRegistersCopiesIntoV0ToVX : Prop :=
  ∀ (x : Reg) (s : State), s.i.toNat + x.val ≤ 0xFFF → ∃ t, exec (.opFX65 x) s = .next t ∧
    (∀ r : Reg, r ≤ x → t.getV r = s.mem.read (s.i.toNat + r.val)) ∧ (∀ r : Reg, x < r → t.getV r = s.getV r) ∧
    t.pc = s.pc + 2 ∧ KeepsAllBut [.regs] s t

/-- R157, R160, R161 with the other value of each parameter (R6), on the shared operations the meanings call. -/
def Obligations.TheOtherConventionsAreAsStated : Prop :=
  ∀ (x : Reg) (s : State),
    ((addToIndex true x s).i.toNat = (s.i.toNat + (s.getV x).toNat) % 65536 ∧
      ((addToIndex true x s).getV 15).toNat = (if 0xFFF < s.i.toNat + (s.getV x).toNat then 1 else 0) ∧
      KeepsRegsBut [15] s (addToIndex true x s) ∧ KeepsAllBut [.regs, .index] s (addToIndex true x s)) ∧
    (s.i.toNat + x.val ≤ 0xFFF →
      (storeRegisters true x s).i.toNat = s.i.toNat + x.val + 1 ∧
      (storeRegisters true x s).setI s.i = storeRegisters false x s ∧
      (loadRegisters true x s).i.toNat = s.i.toNat + x.val + 1 ∧
      (loadRegisters true x s).setI s.i = loadRegisters false x s)

/-- R186, the table's rows for FX33, FX55, FX65 and DXYN: an access beyond 0xFFF halts with the lowest offending address
(the spec's decisions D18, D19) and no effect (D8). -/
def Obligations.AccessBeyondMemoryHaltsWithTheLowestAddress : Prop :=
  ∀ (x y : Reg) (n : BitVec 4) (s : State),
    (0xFFF < s.i.toNat + 2 → exec (.opFX33 x) s = .next { s with fault := some (.outOfBounds (max s.i.toNat 0x1000)) }) ∧
    (0xFFF < s.i.toNat + x.val →
      exec (.opFX55 x) s = .next { s with fault := some (.outOfBounds (max s.i.toNat 0x1000)) } ∧
      exec (.opFX65 x) s = .next { s with fault := some (.outOfBounds (max s.i.toNat 0x1000)) }) ∧
    (0 < n.toNat → 0xFFF < s.i.toNat + n.toNat - 1 →
      exec (.opDXYN x y n) s = .next { s with fault := some (.outOfBounds (max s.i.toNat 0x1000)) })

/-- R62: an instruction word that FX55 stores from `V0` and `V1` is what the next step at that address executes, the byte at
the lower address being the high one (the spec's decision D1, notes/assumptions/1). -/
def Obligations.AStoredInstructionIsTheOneFetched : Prop :=
  ∀ (x : Reg) (s : State) (i : Instr), s.mem.wf = true → 1 ≤ x.val → s.i.toNat + x.val ≤ 0xFFF → s.Running →
    s.host = [] →
    decodeOp (opcodeWord (s.getV 0) (s.getV 1)) = some i →
    ∃ t, exec (.opFX55 x) s = .next t ∧ step (t.setPc s.i) = exec i (t.setPc s.i)

/-! ### Display -/

/-- R166. -/
def Obligations.ClearTurnsEveryPixelOff : Prop :=
  ∀ s : State, ∃ t, exec .op00E0 s = .next t ∧ (∀ x y, t.pixel x y = false) ∧ t.pc = s.pc + 2 ∧ KeepsAllBut [.display] s t

/-- R167, R168: where the rows lie in memory, every pixel is XORed with the sprite bit that lands on it (`spriteBit`), and
`VF` is 1 exactly where some pixel went from on to off. Operands are those before the instruction, also where `X` or `Y` is
F (the spec's decision D7); `N = 0` never fails. -/
def Obligations.DrawXorsTheSpriteAndReportsCollision : Prop :=
  ∀ (x y : Reg) (n : BitVec 4) (s : State), n.toNat = 0 ∨ s.i.toNat + n.toNat - 1 ≤ 0xFFF →
    ∃ t, exec (.opDXYN x y n) s = .next t ∧
      (∀ px py, t.pixel px py = (s.pixel px py ^^ spriteBit s x y n px py)) ∧
      (t.getV 15 = 0 ∨ t.getV 15 = 1) ∧
      (t.getV 15 = 1 ↔ ∃ px py, s.pixel px py = true ∧ t.pixel px py = false) ∧
      t.pc = s.pc + 2 ∧ KeepsRegsBut [15] s t ∧ KeepsAllBut [.regs, .display] s t

/-- R167: the same sprite drawn twice at the same place leaves the frame as it was; the second draw reports a collision
exactly where the first turned a pixel on. -/
def Obligations.DrawingTwiceRestoresTheFrame : Prop :=
  ∀ (x y : Reg) (n : BitVec 4) (s t : State), x ≠ 15 → y ≠ 15 → n.toNat = 0 ∨ s.i.toNat + n.toNat - 1 ≤ 0xFFF →
    exec (.opDXYN x y n) s = .next t →
    ∃ u, exec (.opDXYN x y n) t = .next u ∧ (∀ px py, u.pixel px py = s.pixel px py) ∧
      (u.getV 15 = 1 ↔ ∃ px py, s.pixel px py = false ∧ t.pixel px py = true)

/-! ### Timers and the key wait -/

/-- R176, R178, R179: copies between `VX` and the timers. -/
def Obligations.TimerInstructionsCopyVX : Prop :=
  ∀ (x : Reg) (s : State),
    (∃ t, exec (.opFX07 x) s = .next t ∧ t.getV x = s.dt ∧ t.pc = s.pc + 2 ∧
      KeepsRegsBut [x] s t ∧ KeepsAllBut [.regs] s t) ∧
    (∃ t, exec (.opFX15 x) s = .next t ∧ t.dt = s.getV x ∧ t.pc = s.pc + 2 ∧ KeepsAllBut [.delayTimer] s t) ∧
    (∃ t, exec (.opFX18 x) s = .next t ∧ t.st = s.getV x ∧ t.pc = s.pc + 2 ∧ KeepsAllBut [.soundTimer] s t)

/-- R177: FX0A only enters the blocked state; `VX` and `PC` stay (the spec's decision D15). -/
def Obligations.KeyWaitEntersTheBlockedState : Prop :=
  ∀ (x : Reg) (s : State), ∃ t, exec (.opFX0A x) s = .next t ∧ t.wait = true ∧ t.waitX = x ∧ t.pc = s.pc ∧
    KeepsAllBut [.wait] s t

/-- R177, R101, R109: `FX0A` of a running core, any number of steps, then a key delivered: `VX` holds the key, `PC` is past
the FX0A, and the core runs (the spec's decisions D15, D16). -/
def Obligations.KeyWaitEndsWithTheDeliveredKey : Prop :=
  ∀ (x : Reg) (s t : State) (k : BitVec 4) (n : Nat), s.Running → s.host = [] → exec (.opFX0A x) s = .next t →
    Sys2Proof.core.run n t = .next t ∧
    ∃ u, step (t.setHost [.deliverKey k]) = .next u ∧ u.Running ∧ (u.getV x).toNat = k.toNat ∧
      u.pc = s.pc + 2 ∧ KeepsRegsBut [x] s u ∧ KeepsAllBut [.regs, .wait] s u
end

