-- ==== Sys2Proof/Laws/State.lean ====
section
/-! SUPPORT. One lemma a field for every update of the state, so that no proof unfolds a record update. -/

namespace Sys2Proof.Machine

/-! The parameters as numerals, for arithmetic. -/

@[simp] theorem memSize_eq : Config.memSize = 4096 := rfl
@[simp] theorem programOffset_eq : Config.programOffset = 0x200 := rfl
@[simp] theorem programMax_eq : Config.programMax = 3584 := rfl
@[simp] theorem stackDepth_eq : Config.stackDepth = 16 := rfl

/-! `setV` -/

@[simp] theorem State.setV_v (s : State) (r : Reg) (b : Byte) : (s.setV r b).v = s.v.set r.val b := rfl
@[simp] theorem State.setV_i (s : State) (r : Reg) (b : Byte) : (s.setV r b).i = s.i := rfl
@[simp] theorem State.setV_pc (s : State) (r : Reg) (b : Byte) : (s.setV r b).pc = s.pc := rfl
@[simp] theorem State.setV_stack (s : State) (r : Reg) (b : Byte) : (s.setV r b).stack = s.stack := rfl
@[simp] theorem State.setV_dt (s : State) (r : Reg) (b : Byte) : (s.setV r b).dt = s.dt := rfl
@[simp] theorem State.setV_st (s : State) (r : Reg) (b : Byte) : (s.setV r b).st = s.st := rfl
@[simp] theorem State.setV_wait (s : State) (r : Reg) (b : Byte) : (s.setV r b).wait = s.wait := rfl
@[simp] theorem State.setV_waitX (s : State) (r : Reg) (b : Byte) : (s.setV r b).waitX = s.waitX := rfl
@[simp] theorem State.setV_fault (s : State) (r : Reg) (b : Byte) : (s.setV r b).fault = s.fault := rfl
@[simp] theorem State.setV_mem (s : State) (r : Reg) (b : Byte) : (s.setV r b).mem = s.mem := rfl
@[simp] theorem State.setV_disp (s : State) (r : Reg) (b : Byte) : (s.setV r b).disp = s.disp := rfl
@[simp] theorem State.setV_host (s : State) (r : Reg) (b : Byte) : (s.setV r b).host = s.host := rfl
@[simp] theorem State.setV_draws (s : State) (r : Reg) (b : Byte) : (s.setV r b).draws = s.draws := rfl

/-! `setRegs` -/

@[simp] theorem State.setRegs_v (s : State) (v : RegFile) : (s.setRegs v).v = v := rfl
@[simp] theorem State.setRegs_i (s : State) (v : RegFile) : (s.setRegs v).i = s.i := rfl
@[simp] theorem State.setRegs_pc (s : State) (v : RegFile) : (s.setRegs v).pc = s.pc := rfl
@[simp] theorem State.setRegs_stack (s : State) (v : RegFile) : (s.setRegs v).stack = s.stack := rfl
@[simp] theorem State.setRegs_dt (s : State) (v : RegFile) : (s.setRegs v).dt = s.dt := rfl
@[simp] theorem State.setRegs_st (s : State) (v : RegFile) : (s.setRegs v).st = s.st := rfl
@[simp] theorem State.setRegs_wait (s : State) (v : RegFile) : (s.setRegs v).wait = s.wait := rfl
@[simp] theorem State.setRegs_waitX (s : State) (v : RegFile) : (s.setRegs v).waitX = s.waitX := rfl
@[simp] theorem State.setRegs_fault (s : State) (v : RegFile) : (s.setRegs v).fault = s.fault := rfl
@[simp] theorem State.setRegs_mem (s : State) (v : RegFile) : (s.setRegs v).mem = s.mem := rfl
@[simp] theorem State.setRegs_disp (s : State) (v : RegFile) : (s.setRegs v).disp = s.disp := rfl
@[simp] theorem State.setRegs_host (s : State) (v : RegFile) : (s.setRegs v).host = s.host := rfl
@[simp] theorem State.setRegs_draws (s : State) (v : RegFile) : (s.setRegs v).draws = s.draws := rfl

/-! `setI` -/

@[simp] theorem State.setI_v (s : State) (w : Word) : (s.setI w).v = s.v := rfl
@[simp] theorem State.setI_i (s : State) (w : Word) : (s.setI w).i = w := rfl
@[simp] theorem State.setI_pc (s : State) (w : Word) : (s.setI w).pc = s.pc := rfl
@[simp] theorem State.setI_stack (s : State) (w : Word) : (s.setI w).stack = s.stack := rfl
@[simp] theorem State.setI_dt (s : State) (w : Word) : (s.setI w).dt = s.dt := rfl
@[simp] theorem State.setI_st (s : State) (w : Word) : (s.setI w).st = s.st := rfl
@[simp] theorem State.setI_wait (s : State) (w : Word) : (s.setI w).wait = s.wait := rfl
@[simp] theorem State.setI_waitX (s : State) (w : Word) : (s.setI w).waitX = s.waitX := rfl
@[simp] theorem State.setI_fault (s : State) (w : Word) : (s.setI w).fault = s.fault := rfl
@[simp] theorem State.setI_mem (s : State) (w : Word) : (s.setI w).mem = s.mem := rfl
@[simp] theorem State.setI_disp (s : State) (w : Word) : (s.setI w).disp = s.disp := rfl
@[simp] theorem State.setI_host (s : State) (w : Word) : (s.setI w).host = s.host := rfl
@[simp] theorem State.setI_draws (s : State) (w : Word) : (s.setI w).draws = s.draws := rfl

/-! `setPc` -/

@[simp] theorem State.setPc_v (s : State) (w : Word) : (s.setPc w).v = s.v := rfl
@[simp] theorem State.setPc_i (s : State) (w : Word) : (s.setPc w).i = s.i := rfl
@[simp] theorem State.setPc_pc (s : State) (w : Word) : (s.setPc w).pc = w := rfl
@[simp] theorem State.setPc_stack (s : State) (w : Word) : (s.setPc w).stack = s.stack := rfl
@[simp] theorem State.setPc_dt (s : State) (w : Word) : (s.setPc w).dt = s.dt := rfl
@[simp] theorem State.setPc_st (s : State) (w : Word) : (s.setPc w).st = s.st := rfl
@[simp] theorem State.setPc_wait (s : State) (w : Word) : (s.setPc w).wait = s.wait := rfl
@[simp] theorem State.setPc_waitX (s : State) (w : Word) : (s.setPc w).waitX = s.waitX := rfl
@[simp] theorem State.setPc_fault (s : State) (w : Word) : (s.setPc w).fault = s.fault := rfl
@[simp] theorem State.setPc_mem (s : State) (w : Word) : (s.setPc w).mem = s.mem := rfl
@[simp] theorem State.setPc_disp (s : State) (w : Word) : (s.setPc w).disp = s.disp := rfl
@[simp] theorem State.setPc_host (s : State) (w : Word) : (s.setPc w).host = s.host := rfl
@[simp] theorem State.setPc_draws (s : State) (w : Word) : (s.setPc w).draws = s.draws := rfl

/-! `setDt` -/

@[simp] theorem State.setDt_v (s : State) (b : Timer) : (s.setDt b).v = s.v := rfl
@[simp] theorem State.setDt_i (s : State) (b : Timer) : (s.setDt b).i = s.i := rfl
@[simp] theorem State.setDt_pc (s : State) (b : Timer) : (s.setDt b).pc = s.pc := rfl
@[simp] theorem State.setDt_stack (s : State) (b : Timer) : (s.setDt b).stack = s.stack := rfl
@[simp] theorem State.setDt_dt (s : State) (b : Timer) : (s.setDt b).dt = b := rfl
@[simp] theorem State.setDt_st (s : State) (b : Timer) : (s.setDt b).st = s.st := rfl
@[simp] theorem State.setDt_wait (s : State) (b : Timer) : (s.setDt b).wait = s.wait := rfl
@[simp] theorem State.setDt_waitX (s : State) (b : Timer) : (s.setDt b).waitX = s.waitX := rfl
@[simp] theorem State.setDt_fault (s : State) (b : Timer) : (s.setDt b).fault = s.fault := rfl
@[simp] theorem State.setDt_mem (s : State) (b : Timer) : (s.setDt b).mem = s.mem := rfl
@[simp] theorem State.setDt_disp (s : State) (b : Timer) : (s.setDt b).disp = s.disp := rfl
@[simp] theorem State.setDt_host (s : State) (b : Timer) : (s.setDt b).host = s.host := rfl
@[simp] theorem State.setDt_draws (s : State) (b : Timer) : (s.setDt b).draws = s.draws := rfl

/-! `setSt` -/

@[simp] theorem State.setSt_v (s : State) (b : Timer) : (s.setSt b).v = s.v := rfl
@[simp] theorem State.setSt_i (s : State) (b : Timer) : (s.setSt b).i = s.i := rfl
@[simp] theorem State.setSt_pc (s : State) (b : Timer) : (s.setSt b).pc = s.pc := rfl
@[simp] theorem State.setSt_stack (s : State) (b : Timer) : (s.setSt b).stack = s.stack := rfl
@[simp] theorem State.setSt_dt (s : State) (b : Timer) : (s.setSt b).dt = s.dt := rfl
@[simp] theorem State.setSt_st (s : State) (b : Timer) : (s.setSt b).st = b := rfl
@[simp] theorem State.setSt_wait (s : State) (b : Timer) : (s.setSt b).wait = s.wait := rfl
@[simp] theorem State.setSt_waitX (s : State) (b : Timer) : (s.setSt b).waitX = s.waitX := rfl
@[simp] theorem State.setSt_fault (s : State) (b : Timer) : (s.setSt b).fault = s.fault := rfl
@[simp] theorem State.setSt_mem (s : State) (b : Timer) : (s.setSt b).mem = s.mem := rfl
@[simp] theorem State.setSt_disp (s : State) (b : Timer) : (s.setSt b).disp = s.disp := rfl
@[simp] theorem State.setSt_host (s : State) (b : Timer) : (s.setSt b).host = s.host := rfl
@[simp] theorem State.setSt_draws (s : State) (b : Timer) : (s.setSt b).draws = s.draws := rfl

/-! `setMem` -/

@[simp] theorem State.setMem_v (s : State) (m : Memory) : (s.setMem m).v = s.v := rfl
@[simp] theorem State.setMem_i (s : State) (m : Memory) : (s.setMem m).i = s.i := rfl
@[simp] theorem State.setMem_pc (s : State) (m : Memory) : (s.setMem m).pc = s.pc := rfl
@[simp] theorem State.setMem_stack (s : State) (m : Memory) : (s.setMem m).stack = s.stack := rfl
@[simp] theorem State.setMem_dt (s : State) (m : Memory) : (s.setMem m).dt = s.dt := rfl
@[simp] theorem State.setMem_st (s : State) (m : Memory) : (s.setMem m).st = s.st := rfl
@[simp] theorem State.setMem_wait (s : State) (m : Memory) : (s.setMem m).wait = s.wait := rfl
@[simp] theorem State.setMem_waitX (s : State) (m : Memory) : (s.setMem m).waitX = s.waitX := rfl
@[simp] theorem State.setMem_fault (s : State) (m : Memory) : (s.setMem m).fault = s.fault := rfl
@[simp] theorem State.setMem_mem (s : State) (m : Memory) : (s.setMem m).mem = m := rfl
@[simp] theorem State.setMem_disp (s : State) (m : Memory) : (s.setMem m).disp = s.disp := rfl
@[simp] theorem State.setMem_host (s : State) (m : Memory) : (s.setMem m).host = s.host := rfl
@[simp] theorem State.setMem_draws (s : State) (m : Memory) : (s.setMem m).draws = s.draws := rfl

/-! `setDisp` -/

@[simp] theorem State.setDisp_v (s : State) (d : Frame) : (s.setDisp d).v = s.v := rfl
@[simp] theorem State.setDisp_i (s : State) (d : Frame) : (s.setDisp d).i = s.i := rfl
@[simp] theorem State.setDisp_pc (s : State) (d : Frame) : (s.setDisp d).pc = s.pc := rfl
@[simp] theorem State.setDisp_stack (s : State) (d : Frame) : (s.setDisp d).stack = s.stack := rfl
@[simp] theorem State.setDisp_dt (s : State) (d : Frame) : (s.setDisp d).dt = s.dt := rfl
@[simp] theorem State.setDisp_st (s : State) (d : Frame) : (s.setDisp d).st = s.st := rfl
@[simp] theorem State.setDisp_wait (s : State) (d : Frame) : (s.setDisp d).wait = s.wait := rfl
@[simp] theorem State.setDisp_waitX (s : State) (d : Frame) : (s.setDisp d).waitX = s.waitX := rfl
@[simp] theorem State.setDisp_fault (s : State) (d : Frame) : (s.setDisp d).fault = s.fault := rfl
@[simp] theorem State.setDisp_mem (s : State) (d : Frame) : (s.setDisp d).mem = s.mem := rfl
@[simp] theorem State.setDisp_disp (s : State) (d : Frame) : (s.setDisp d).disp = d := rfl
@[simp] theorem State.setDisp_host (s : State) (d : Frame) : (s.setDisp d).host = s.host := rfl
@[simp] theorem State.setDisp_draws (s : State) (d : Frame) : (s.setDisp d).draws = s.draws := rfl

/-! `advance` -/

@[simp] theorem State.advance_v (s : State) : (s.advance).v = s.v := rfl
@[simp] theorem State.advance_i (s : State) : (s.advance).i = s.i := rfl
@[simp] theorem State.advance_pc (s : State) : (s.advance).pc = s.pc + 2 := rfl
@[simp] theorem State.advance_stack (s : State) : (s.advance).stack = s.stack := rfl
@[simp] theorem State.advance_dt (s : State) : (s.advance).dt = s.dt := rfl
@[simp] theorem State.advance_st (s : State) : (s.advance).st = s.st := rfl
@[simp] theorem State.advance_wait (s : State) : (s.advance).wait = s.wait := rfl
@[simp] theorem State.advance_waitX (s : State) : (s.advance).waitX = s.waitX := rfl
@[simp] theorem State.advance_fault (s : State) : (s.advance).fault = s.fault := rfl
@[simp] theorem State.advance_mem (s : State) : (s.advance).mem = s.mem := rfl
@[simp] theorem State.advance_disp (s : State) : (s.advance).disp = s.disp := rfl
@[simp] theorem State.advance_host (s : State) : (s.advance).host = s.host := rfl
@[simp] theorem State.advance_draws (s : State) : (s.advance).draws = s.draws := rfl

/-! `push` -/

@[simp] theorem State.push_v (s : State) (w : Word) : (s.push w).v = s.v := rfl
@[simp] theorem State.push_i (s : State) (w : Word) : (s.push w).i = s.i := rfl
@[simp] theorem State.push_pc (s : State) (w : Word) : (s.push w).pc = s.pc := rfl
@[simp] theorem State.push_stack (s : State) (w : Word) : (s.push w).stack = w :: s.stack := rfl
@[simp] theorem State.push_dt (s : State) (w : Word) : (s.push w).dt = s.dt := rfl
@[simp] theorem State.push_st (s : State) (w : Word) : (s.push w).st = s.st := rfl
@[simp] theorem State.push_wait (s : State) (w : Word) : (s.push w).wait = s.wait := rfl
@[simp] theorem State.push_waitX (s : State) (w : Word) : (s.push w).waitX = s.waitX := rfl
@[simp] theorem State.push_fault (s : State) (w : Word) : (s.push w).fault = s.fault := rfl
@[simp] theorem State.push_mem (s : State) (w : Word) : (s.push w).mem = s.mem := rfl
@[simp] theorem State.push_disp (s : State) (w : Word) : (s.push w).disp = s.disp := rfl
@[simp] theorem State.push_host (s : State) (w : Word) : (s.push w).host = s.host := rfl
@[simp] theorem State.push_draws (s : State) (w : Word) : (s.push w).draws = s.draws := rfl

/-! `setStack` -/

@[simp] theorem State.setStack_v (s : State) (k : List Word) : (s.setStack k).v = s.v := rfl
@[simp] theorem State.setStack_i (s : State) (k : List Word) : (s.setStack k).i = s.i := rfl
@[simp] theorem State.setStack_pc (s : State) (k : List Word) : (s.setStack k).pc = s.pc := rfl
@[simp] theorem State.setStack_stack (s : State) (k : List Word) : (s.setStack k).stack = k := rfl
@[simp] theorem State.setStack_dt (s : State) (k : List Word) : (s.setStack k).dt = s.dt := rfl
@[simp] theorem State.setStack_st (s : State) (k : List Word) : (s.setStack k).st = s.st := rfl
@[simp] theorem State.setStack_wait (s : State) (k : List Word) : (s.setStack k).wait = s.wait := rfl
@[simp] theorem State.setStack_waitX (s : State) (k : List Word) : (s.setStack k).waitX = s.waitX := rfl
@[simp] theorem State.setStack_fault (s : State) (k : List Word) : (s.setStack k).fault = s.fault := rfl
@[simp] theorem State.setStack_mem (s : State) (k : List Word) : (s.setStack k).mem = s.mem := rfl
@[simp] theorem State.setStack_disp (s : State) (k : List Word) : (s.setStack k).disp = s.disp := rfl
@[simp] theorem State.setStack_host (s : State) (k : List Word) : (s.setStack k).host = s.host := rfl
@[simp] theorem State.setStack_draws (s : State) (k : List Word) : (s.setStack k).draws = s.draws := rfl

/-! `block` -/

@[simp] theorem State.block_v (s : State) (x : Reg) : (s.block x).v = s.v := rfl
@[simp] theorem State.block_i (s : State) (x : Reg) : (s.block x).i = s.i := rfl
@[simp] theorem State.block_pc (s : State) (x : Reg) : (s.block x).pc = s.pc := rfl
@[simp] theorem State.block_stack (s : State) (x : Reg) : (s.block x).stack = s.stack := rfl
@[simp] theorem State.block_dt (s : State) (x : Reg) : (s.block x).dt = s.dt := rfl
@[simp] theorem State.block_st (s : State) (x : Reg) : (s.block x).st = s.st := rfl
@[simp] theorem State.block_wait (s : State) (x : Reg) : (s.block x).wait = true := rfl
@[simp] theorem State.block_waitX (s : State) (x : Reg) : (s.block x).waitX = x := rfl
@[simp] theorem State.block_fault (s : State) (x : Reg) : (s.block x).fault = s.fault := rfl
@[simp] theorem State.block_mem (s : State) (x : Reg) : (s.block x).mem = s.mem := rfl
@[simp] theorem State.block_disp (s : State) (x : Reg) : (s.block x).disp = s.disp := rfl
@[simp] theorem State.block_host (s : State) (x : Reg) : (s.block x).host = s.host := rfl
@[simp] theorem State.block_draws (s : State) (x : Reg) : (s.block x).draws = s.draws := rfl

/-! `unblock` -/

@[simp] theorem State.unblock_v (s : State) : (s.unblock).v = s.v := rfl
@[simp] theorem State.unblock_i (s : State) : (s.unblock).i = s.i := rfl
@[simp] theorem State.unblock_pc (s : State) : (s.unblock).pc = s.pc := rfl
@[simp] theorem State.unblock_stack (s : State) : (s.unblock).stack = s.stack := rfl
@[simp] theorem State.unblock_dt (s : State) : (s.unblock).dt = s.dt := rfl
@[simp] theorem State.unblock_st (s : State) : (s.unblock).st = s.st := rfl
@[simp] theorem State.unblock_wait (s : State) : (s.unblock).wait = false := rfl
@[simp] theorem State.unblock_waitX (s : State) : (s.unblock).waitX = s.waitX := rfl
@[simp] theorem State.unblock_fault (s : State) : (s.unblock).fault = s.fault := rfl
@[simp] theorem State.unblock_mem (s : State) : (s.unblock).mem = s.mem := rfl
@[simp] theorem State.unblock_disp (s : State) : (s.unblock).disp = s.disp := rfl
@[simp] theorem State.unblock_host (s : State) : (s.unblock).host = s.host := rfl
@[simp] theorem State.unblock_draws (s : State) : (s.unblock).draws = s.draws := rfl

/-! `drawn` -/

@[simp] theorem State.drawn_v (s : State) : (s.drawn).v = s.v := rfl
@[simp] theorem State.drawn_i (s : State) : (s.drawn).i = s.i := rfl
@[simp] theorem State.drawn_pc (s : State) : (s.drawn).pc = s.pc := rfl
@[simp] theorem State.drawn_stack (s : State) : (s.drawn).stack = s.stack := rfl
@[simp] theorem State.drawn_dt (s : State) : (s.drawn).dt = s.dt := rfl
@[simp] theorem State.drawn_st (s : State) : (s.drawn).st = s.st := rfl
@[simp] theorem State.drawn_wait (s : State) : (s.drawn).wait = s.wait := rfl
@[simp] theorem State.drawn_waitX (s : State) : (s.drawn).waitX = s.waitX := rfl
@[simp] theorem State.drawn_fault (s : State) : (s.drawn).fault = s.fault := rfl
@[simp] theorem State.drawn_mem (s : State) : (s.drawn).mem = s.mem := rfl
@[simp] theorem State.drawn_disp (s : State) : (s.drawn).disp = s.disp := rfl
@[simp] theorem State.drawn_host (s : State) : (s.drawn).host = s.host := rfl
@[simp] theorem State.drawn_draws (s : State) : (s.drawn).draws = s.draws + 1 := rfl

/-! `setHost` -/

@[simp] theorem State.setHost_v (s : State) (h : List HostEvent) : (s.setHost h).v = s.v := rfl
@[simp] theorem State.setHost_i (s : State) (h : List HostEvent) : (s.setHost h).i = s.i := rfl
@[simp] theorem State.setHost_pc (s : State) (h : List HostEvent) : (s.setHost h).pc = s.pc := rfl
@[simp] theorem State.setHost_stack (s : State) (h : List HostEvent) : (s.setHost h).stack = s.stack := rfl
@[simp] theorem State.setHost_dt (s : State) (h : List HostEvent) : (s.setHost h).dt = s.dt := rfl
@[simp] theorem State.setHost_st (s : State) (h : List HostEvent) : (s.setHost h).st = s.st := rfl
@[simp] theorem State.setHost_wait (s : State) (h : List HostEvent) : (s.setHost h).wait = s.wait := rfl
@[simp] theorem State.setHost_waitX (s : State) (h : List HostEvent) : (s.setHost h).waitX = s.waitX := rfl
@[simp] theorem State.setHost_fault (s : State) (h : List HostEvent) : (s.setHost h).fault = s.fault := rfl
@[simp] theorem State.setHost_mem (s : State) (h : List HostEvent) : (s.setHost h).mem = s.mem := rfl
@[simp] theorem State.setHost_disp (s : State) (h : List HostEvent) : (s.setHost h).disp = s.disp := rfl
@[simp] theorem State.setHost_host (s : State) (h : List HostEvent) : (s.setHost h).host = h := rfl
@[simp] theorem State.setHost_draws (s : State) (h : List HostEvent) : (s.setHost h).draws = s.draws := rfl

/-! `setFlag` -/

@[simp] theorem State.setFlag_v (s : State) (c : Bool) : (s.setFlag c).v = s.v.set 15 (flagByte c) := rfl
@[simp] theorem State.setFlag_i (s : State) (c : Bool) : (s.setFlag c).i = s.i := rfl
@[simp] theorem State.setFlag_pc (s : State) (c : Bool) : (s.setFlag c).pc = s.pc := rfl
@[simp] theorem State.setFlag_stack (s : State) (c : Bool) : (s.setFlag c).stack = s.stack := rfl
@[simp] theorem State.setFlag_dt (s : State) (c : Bool) : (s.setFlag c).dt = s.dt := rfl
@[simp] theorem State.setFlag_st (s : State) (c : Bool) : (s.setFlag c).st = s.st := rfl
@[simp] theorem State.setFlag_wait (s : State) (c : Bool) : (s.setFlag c).wait = s.wait := rfl
@[simp] theorem State.setFlag_waitX (s : State) (c : Bool) : (s.setFlag c).waitX = s.waitX := rfl
@[simp] theorem State.setFlag_fault (s : State) (c : Bool) : (s.setFlag c).fault = s.fault := rfl
@[simp] theorem State.setFlag_mem (s : State) (c : Bool) : (s.setFlag c).mem = s.mem := rfl
@[simp] theorem State.setFlag_disp (s : State) (c : Bool) : (s.setFlag c).disp = s.disp := rfl
@[simp] theorem State.setFlag_host (s : State) (c : Bool) : (s.setFlag c).host = s.host := rfl
@[simp] theorem State.setFlag_draws (s : State) (c : Bool) : (s.setFlag c).draws = s.draws := rfl

/-! `setResultAndFlag` -/

@[simp] theorem State.setResultAndFlag_v (s : State) (x : Reg) (b : Byte) (c : Bool) : (s.setResultAndFlag x b c).v = (s.v.set x.val b).set 15 (flagByte c) := rfl
@[simp] theorem State.setResultAndFlag_i (s : State) (x : Reg) (b : Byte) (c : Bool) : (s.setResultAndFlag x b c).i = s.i := rfl
@[simp] theorem State.setResultAndFlag_pc (s : State) (x : Reg) (b : Byte) (c : Bool) : (s.setResultAndFlag x b c).pc = s.pc := rfl
@[simp] theorem State.setResultAndFlag_stack (s : State) (x : Reg) (b : Byte) (c : Bool) : (s.setResultAndFlag x b c).stack = s.stack := rfl
@[simp] theorem State.setResultAndFlag_dt (s : State) (x : Reg) (b : Byte) (c : Bool) : (s.setResultAndFlag x b c).dt = s.dt := rfl
@[simp] theorem State.setResultAndFlag_st (s : State) (x : Reg) (b : Byte) (c : Bool) : (s.setResultAndFlag x b c).st = s.st := rfl
@[simp] theorem State.setResultAndFlag_wait (s : State) (x : Reg) (b : Byte) (c : Bool) : (s.setResultAndFlag x b c).wait = s.wait := rfl
@[simp] theorem State.setResultAndFlag_waitX (s : State) (x : Reg) (b : Byte) (c : Bool) : (s.setResultAndFlag x b c).waitX = s.waitX := rfl
@[simp] theorem State.setResultAndFlag_fault (s : State) (x : Reg) (b : Byte) (c : Bool) : (s.setResultAndFlag x b c).fault = s.fault := rfl
@[simp] theorem State.setResultAndFlag_mem (s : State) (x : Reg) (b : Byte) (c : Bool) : (s.setResultAndFlag x b c).mem = s.mem := rfl
@[simp] theorem State.setResultAndFlag_disp (s : State) (x : Reg) (b : Byte) (c : Bool) : (s.setResultAndFlag x b c).disp = s.disp := rfl
@[simp] theorem State.setResultAndFlag_host (s : State) (x : Reg) (b : Byte) (c : Bool) : (s.setResultAndFlag x b c).host = s.host := rfl
@[simp] theorem State.setResultAndFlag_draws (s : State) (x : Reg) (b : Byte) (c : Bool) : (s.setResultAndFlag x b c).draws = s.draws := rfl

/-! `tickTimers` -/

@[simp] theorem State.tickTimers_v (s : State) : (s.tickTimers).v = s.v := rfl
@[simp] theorem State.tickTimers_i (s : State) : (s.tickTimers).i = s.i := rfl
@[simp] theorem State.tickTimers_pc (s : State) : (s.tickTimers).pc = s.pc := rfl
@[simp] theorem State.tickTimers_stack (s : State) : (s.tickTimers).stack = s.stack := rfl
@[simp] theorem State.tickTimers_dt (s : State) : (s.tickTimers).dt = countDown s.dt := rfl
@[simp] theorem State.tickTimers_st (s : State) : (s.tickTimers).st = countDown s.st := rfl
@[simp] theorem State.tickTimers_wait (s : State) : (s.tickTimers).wait = s.wait := rfl
@[simp] theorem State.tickTimers_waitX (s : State) : (s.tickTimers).waitX = s.waitX := rfl
@[simp] theorem State.tickTimers_fault (s : State) : (s.tickTimers).fault = s.fault := rfl
@[simp] theorem State.tickTimers_mem (s : State) : (s.tickTimers).mem = s.mem := rfl
@[simp] theorem State.tickTimers_disp (s : State) : (s.tickTimers).disp = s.disp := rfl
@[simp] theorem State.tickTimers_host (s : State) : (s.tickTimers).host = s.host := rfl
@[simp] theorem State.tickTimers_draws (s : State) : (s.tickTimers).draws = s.draws := rfl

/-! `skipIf` -/

@[simp] theorem State.skipIf_v (c : Bool) (s : State) : (s.skipIf c).v = s.v := rfl
@[simp] theorem State.skipIf_i (c : Bool) (s : State) : (s.skipIf c).i = s.i := rfl
@[simp] theorem State.skipIf_pc (c : Bool) (s : State) : (s.skipIf c).pc = if c then s.pc + 2 else s.pc := rfl
@[simp] theorem State.skipIf_stack (c : Bool) (s : State) : (s.skipIf c).stack = s.stack := rfl
@[simp] theorem State.skipIf_dt (c : Bool) (s : State) : (s.skipIf c).dt = s.dt := rfl
@[simp] theorem State.skipIf_st (c : Bool) (s : State) : (s.skipIf c).st = s.st := rfl
@[simp] theorem State.skipIf_wait (c : Bool) (s : State) : (s.skipIf c).wait = s.wait := rfl
@[simp] theorem State.skipIf_waitX (c : Bool) (s : State) : (s.skipIf c).waitX = s.waitX := rfl
@[simp] theorem State.skipIf_fault (c : Bool) (s : State) : (s.skipIf c).fault = s.fault := rfl
@[simp] theorem State.skipIf_mem (c : Bool) (s : State) : (s.skipIf c).mem = s.mem := rfl
@[simp] theorem State.skipIf_disp (c : Bool) (s : State) : (s.skipIf c).disp = s.disp := rfl
@[simp] theorem State.skipIf_host (c : Bool) (s : State) : (s.skipIf c).host = s.host := rfl
@[simp] theorem State.skipIf_draws (c : Bool) (s : State) : (s.skipIf c).draws = s.draws := rfl

/-! `raise` -/

@[simp] theorem State.raise_v (e : Fault) (s : State) : (s.raise e).v = s.v := rfl
@[simp] theorem State.raise_i (e : Fault) (s : State) : (s.raise e).i = s.i := rfl
@[simp] theorem State.raise_pc (e : Fault) (s : State) : (s.raise e).pc = s.pc := rfl
@[simp] theorem State.raise_stack (e : Fault) (s : State) : (s.raise e).stack = s.stack := rfl
@[simp] theorem State.raise_dt (e : Fault) (s : State) : (s.raise e).dt = s.dt := rfl
@[simp] theorem State.raise_st (e : Fault) (s : State) : (s.raise e).st = s.st := rfl
@[simp] theorem State.raise_wait (e : Fault) (s : State) : (s.raise e).wait = s.wait := rfl
@[simp] theorem State.raise_waitX (e : Fault) (s : State) : (s.raise e).waitX = s.waitX := rfl
@[simp] theorem State.raise_fault (e : Fault) (s : State) : (s.raise e).fault = some e := rfl
@[simp] theorem State.raise_mem (e : Fault) (s : State) : (s.raise e).mem = s.mem := rfl
@[simp] theorem State.raise_disp (e : Fault) (s : State) : (s.raise e).disp = s.disp := rfl
@[simp] theorem State.raise_host (e : Fault) (s : State) : (s.raise e).host = s.host := rfl
@[simp] theorem State.raise_draws (e : Fault) (s : State) : (s.raise e).draws = s.draws := rfl

/-! The derived reads `getV`, `sp`, `stackEntry`, `pixel` look at one field each. -/

theorem State.getV_congr (s t : State) (r : Reg) (h : t.v = s.v) : t.getV r = s.getV r := by simp [State.getV, h]
@[simp] theorem State.getV_setI (s : State) (w : Word) (r : Reg) : (s.setI w).getV r = s.getV r := rfl
@[simp] theorem State.getV_setPc (s : State) (w : Word) (r : Reg) : (s.setPc w).getV r = s.getV r := rfl
@[simp] theorem State.getV_setDt (s : State) (b : Timer) (r : Reg) : (s.setDt b).getV r = s.getV r := rfl
@[simp] theorem State.getV_setSt (s : State) (b : Timer) (r : Reg) : (s.setSt b).getV r = s.getV r := rfl
@[simp] theorem State.getV_setMem (s : State) (m : Memory) (r : Reg) : (s.setMem m).getV r = s.getV r := rfl
@[simp] theorem State.getV_setDisp (s : State) (d : Frame) (r : Reg) : (s.setDisp d).getV r = s.getV r := rfl
@[simp] theorem State.getV_advance (s : State) (r : Reg) : (s.advance).getV r = s.getV r := rfl
@[simp] theorem State.getV_push (s : State) (w : Word) (r : Reg) : (s.push w).getV r = s.getV r := rfl
@[simp] theorem State.getV_setStack (s : State) (k : List Word) (r : Reg) : (s.setStack k).getV r = s.getV r := rfl
@[simp] theorem State.getV_block (s : State) (x : Reg) (r : Reg) : (s.block x).getV r = s.getV r := rfl
@[simp] theorem State.getV_unblock (s : State) (r : Reg) : (s.unblock).getV r = s.getV r := rfl
@[simp] theorem State.getV_drawn (s : State) (r : Reg) : (s.drawn).getV r = s.getV r := rfl
@[simp] theorem State.getV_setHost (s : State) (h : List HostEvent) (r : Reg) : (s.setHost h).getV r = s.getV r := rfl
@[simp] theorem State.getV_tickTimers (s : State) (r : Reg) : (s.tickTimers).getV r = s.getV r := rfl
@[simp] theorem State.getV_skipIf (c : Bool) (s : State) (r : Reg) : (s.skipIf c).getV r = s.getV r := rfl
@[simp] theorem State.getV_raise (e : Fault) (s : State) (r : Reg) : (s.raise e).getV r = s.getV r := rfl

theorem State.sp_congr (s t : State) (h : t.stack = s.stack) : t.sp = s.sp := by simp [State.sp, h]
@[simp] theorem State.sp_setV (s : State) (r : Reg) (b : Byte) : (s.setV r b).sp = s.sp := rfl
@[simp] theorem State.sp_setRegs (s : State) (v : RegFile) : (s.setRegs v).sp = s.sp := rfl
@[simp] theorem State.sp_setI (s : State) (w : Word) : (s.setI w).sp = s.sp := rfl
@[simp] theorem State.sp_setPc (s : State) (w : Word) : (s.setPc w).sp = s.sp := rfl
@[simp] theorem State.sp_setDt (s : State) (b : Timer) : (s.setDt b).sp = s.sp := rfl
@[simp] theorem State.sp_setSt (s : State) (b : Timer) : (s.setSt b).sp = s.sp := rfl
@[simp] theorem State.sp_setMem (s : State) (m : Memory) : (s.setMem m).sp = s.sp := rfl
@[simp] theorem State.sp_setDisp (s : State) (d : Frame) : (s.setDisp d).sp = s.sp := rfl
@[simp] theorem State.sp_advance (s : State) : (s.advance).sp = s.sp := rfl
@[simp] theorem State.sp_block (s : State) (x : Reg) : (s.block x).sp = s.sp := rfl
@[simp] theorem State.sp_unblock (s : State) : (s.unblock).sp = s.sp := rfl
@[simp] theorem State.sp_drawn (s : State) : (s.drawn).sp = s.sp := rfl
@[simp] theorem State.sp_setHost (s : State) (h : List HostEvent) : (s.setHost h).sp = s.sp := rfl
@[simp] theorem State.sp_setFlag (s : State) (c : Bool) : (s.setFlag c).sp = s.sp := rfl
@[simp] theorem State.sp_setResultAndFlag (s : State) (x : Reg) (b : Byte) (c : Bool) : (s.setResultAndFlag x b c).sp = s.sp := rfl
@[simp] theorem State.sp_tickTimers (s : State) : (s.tickTimers).sp = s.sp := rfl
@[simp] theorem State.sp_skipIf (c : Bool) (s : State) : (s.skipIf c).sp = s.sp := rfl
@[simp] theorem State.sp_raise (e : Fault) (s : State) : (s.raise e).sp = s.sp := rfl

theorem State.stackEntry_congr (s t : State) (k : Nat) (h : t.stack = s.stack) : t.stackEntry k = s.stackEntry k := by simp [State.stackEntry, h]
@[simp] theorem State.stackEntry_setV (s : State) (r : Reg) (b : Byte) (k : Nat) : (s.setV r b).stackEntry k = s.stackEntry k := rfl
@[simp] theorem State.stackEntry_setRegs (s : State) (v : RegFile) (k : Nat) : (s.setRegs v).stackEntry k = s.stackEntry k := rfl
@[simp] theorem State.stackEntry_setI (s : State) (w : Word) (k : Nat) : (s.setI w).stackEntry k = s.stackEntry k := rfl
@[simp] theorem State.stackEntry_setPc (s : State) (w : Word) (k : Nat) : (s.setPc w).stackEntry k = s.stackEntry k := rfl
@[simp] theorem State.stackEntry_setDt (s : State) (b : Timer) (k : Nat) : (s.setDt b).stackEntry k = s.stackEntry k := rfl
@[simp] theorem State.stackEntry_setSt (s : State) (b : Timer) (k : Nat) : (s.setSt b).stackEntry k = s.stackEntry k := rfl
@[simp] theorem State.stackEntry_setMem (s : State) (m : Memory) (k : Nat) : (s.setMem m).stackEntry k = s.stackEntry k := rfl
@[simp] theorem State.stackEntry_setDisp (s : State) (d : Frame) (k : Nat) : (s.setDisp d).stackEntry k = s.stackEntry k := rfl
@[simp] theorem State.stackEntry_advance (s : State) (k : Nat) : (s.advance).stackEntry k = s.stackEntry k := rfl
@[simp] theorem State.stackEntry_block (s : State) (x : Reg) (k : Nat) : (s.block x).stackEntry k = s.stackEntry k := rfl
@[simp] theorem State.stackEntry_unblock (s : State) (k : Nat) : (s.unblock).stackEntry k = s.stackEntry k := rfl
@[simp] theorem State.stackEntry_drawn (s : State) (k : Nat) : (s.drawn).stackEntry k = s.stackEntry k := rfl
@[simp] theorem State.stackEntry_setHost (s : State) (h : List HostEvent) (k : Nat) : (s.setHost h).stackEntry k = s.stackEntry k := rfl
@[simp] theorem State.stackEntry_setFlag (s : State) (c : Bool) (k : Nat) : (s.setFlag c).stackEntry k = s.stackEntry k := rfl
@[simp] theorem State.stackEntry_setResultAndFlag (s : State) (x : Reg) (b : Byte) (c : Bool) (k : Nat) : (s.setResultAndFlag x b c).stackEntry k = s.stackEntry k := rfl
@[simp] theorem State.stackEntry_tickTimers (s : State) (k : Nat) : (s.tickTimers).stackEntry k = s.stackEntry k := rfl
@[simp] theorem State.stackEntry_skipIf (c : Bool) (s : State) (k : Nat) : (s.skipIf c).stackEntry k = s.stackEntry k := rfl
@[simp] theorem State.stackEntry_raise (e : Fault) (s : State) (k : Nat) : (s.raise e).stackEntry k = s.stackEntry k := rfl

theorem State.pixel_congr (s t : State) (x : Fin 64) (y : Fin 32) (h : t.disp = s.disp) : t.pixel x y = s.pixel x y := by simp [State.pixel, h]
@[simp] theorem State.pixel_setV (s : State) (r : Reg) (b : Byte) (x : Fin 64) (y : Fin 32) : (s.setV r b).pixel x y = s.pixel x y := rfl
@[simp] theorem State.pixel_setRegs (s : State) (v : RegFile) (x : Fin 64) (y : Fin 32) : (s.setRegs v).pixel x y = s.pixel x y := rfl
@[simp] theorem State.pixel_setI (s : State) (w : Word) (x : Fin 64) (y : Fin 32) : (s.setI w).pixel x y = s.pixel x y := rfl
@[simp] theorem State.pixel_setPc (s : State) (w : Word) (x : Fin 64) (y : Fin 32) : (s.setPc w).pixel x y = s.pixel x y := rfl
@[simp] theorem State.pixel_setDt (s : State) (b : Timer) (x : Fin 64) (y : Fin 32) : (s.setDt b).pixel x y = s.pixel x y := rfl
@[simp] theorem State.pixel_setSt (s : State) (b : Timer) (x : Fin 64) (y : Fin 32) : (s.setSt b).pixel x y = s.pixel x y := rfl
@[simp] theorem State.pixel_setMem (s : State) (m : Memory) (x : Fin 64) (y : Fin 32) : (s.setMem m).pixel x y = s.pixel x y := rfl
@[simp] theorem State.pixel_advance (s : State) (x : Fin 64) (y : Fin 32) : (s.advance).pixel x y = s.pixel x y := rfl
@[simp] theorem State.pixel_push (s : State) (w : Word) (x : Fin 64) (y : Fin 32) : (s.push w).pixel x y = s.pixel x y := rfl
@[simp] theorem State.pixel_setStack (s : State) (k : List Word) (x : Fin 64) (y : Fin 32) : (s.setStack k).pixel x y = s.pixel x y := rfl
@[simp] theorem State.pixel_block (s : State) (x' : Reg) (x : Fin 64) (y : Fin 32) : (s.block x').pixel x y = s.pixel x y := rfl
@[simp] theorem State.pixel_unblock (s : State) (x : Fin 64) (y : Fin 32) : (s.unblock).pixel x y = s.pixel x y := rfl
@[simp] theorem State.pixel_drawn (s : State) (x : Fin 64) (y : Fin 32) : (s.drawn).pixel x y = s.pixel x y := rfl
@[simp] theorem State.pixel_setHost (s : State) (h : List HostEvent) (x : Fin 64) (y : Fin 32) : (s.setHost h).pixel x y = s.pixel x y := rfl
@[simp] theorem State.pixel_setFlag (s : State) (c : Bool) (x : Fin 64) (y : Fin 32) : (s.setFlag c).pixel x y = s.pixel x y := rfl
@[simp] theorem State.pixel_setResultAndFlag (s : State) (x' : Reg) (b : Byte) (c : Bool) (x : Fin 64) (y : Fin 32) : (s.setResultAndFlag x' b c).pixel x y = s.pixel x y := rfl
@[simp] theorem State.pixel_tickTimers (s : State) (x : Fin 64) (y : Fin 32) : (s.tickTimers).pixel x y = s.pixel x y := rfl
@[simp] theorem State.pixel_skipIf (c : Bool) (s : State) (x : Fin 64) (y : Fin 32) : (s.skipIf c).pixel x y = s.pixel x y := rfl
@[simp] theorem State.pixel_raise (e : Fault) (s : State) (x : Fin 64) (y : Fin 32) : (s.raise e).pixel x y = s.pixel x y := rfl

/-! Registers read after a register write. -/

@[simp] theorem State.getV_setV_self (s : State) (r : Reg) (b : Byte) : (s.setV r b).getV r = b := by
  simp [State.getV, State.setV]

theorem State.getV_setV (s : State) (r q : Reg) (b : Byte) :
    (s.setV r b).getV q = if q = r then b else s.getV q := by
  by_cases h : q = r
  · subst h; simp
  · have : r.val ≠ q.val := fun e => h (Fin.ext e.symm)
    simp [State.getV, State.setV, h, this]

theorem State.getV_setV_ne (s : State) {r q : Reg} (b : Byte) (h : q ≠ r) : (s.setV r b).getV q = s.getV q := by
  simp [State.getV_setV, h]

theorem State.getV_setFlag (s : State) (c : Bool) (q : Reg) :
    (s.setFlag c).getV q = if q = 15 then flagByte c else s.getV q :=
  State.getV_setV s 15 q _

/-- R136: the flag is written last, so it wins where the destination is `VF`. -/
theorem State.getV_setResultAndFlag (s : State) (x q : Reg) (b : Byte) (c : Bool) :
    (s.setResultAndFlag x b c).getV q = if q = 15 then flagByte c else if q = x then b else s.getV q := by
  rw [State.setResultAndFlag, State.getV_setFlag, State.getV_setV]

end Sys2Proof.Machine
end

