-- ==== Sys2Proof/Laws/Memory.lean ====
section
/-! SUPPORT. Memory: a read after a write, a write leaves every other byte alone (20_memory.md R55), every operation keeps
the canonical form, and canonical memories that read alike are equal. -/

namespace Sys2Proof.Machine

/-! ### The canonical form -/

@[simp] theorem Memory.wfFrom_nil (lo : Nat) : Memory.wfFrom lo [] = true := rfl

theorem Memory.wfFrom_cons (lo a : Nat) (v : Byte) (rest : Memory) :
    Memory.wfFrom lo ((a, v) :: rest) = true ↔
      lo ≤ a ∧ a < Config.memSize ∧ v ≠ Memory.unlisted a ∧ Memory.wfFrom (a + 1) rest = true := by
  simp [Memory.wfFrom, and_assoc]

theorem Memory.wfFrom_mono {lo lo' : Nat} {m : Memory} (h : lo' ≤ lo) (hm : Memory.wfFrom lo m = true) :
    Memory.wfFrom lo' m = true := by
  cases m with
  | nil => rfl
  | cons c rest =>
    obtain ⟨a, v⟩ := c
    rw [Memory.wfFrom_cons] at hm ⊢
    exact ⟨h.trans hm.1, hm.2⟩

/-- Below the first listed address every byte has its reset content. -/
theorem Memory.read_of_wfFrom {lo : Nat} {m : Memory} (hm : Memory.wfFrom lo m = true) {a : Nat} (h : a < lo) :
    m.read a = Memory.unlisted a := by
  induction m generalizing lo with
  | nil => rfl
  | cons c rest ih =>
    obtain ⟨b, v⟩ := c
    rw [Memory.wfFrom_cons] at hm
    have hab : a ≠ b := by omega
    simp only [Memory.read, hab, if_false]
    exact ih hm.2.2.2 (by omega)

theorem Memory.put_wfFrom {lo a : Nat} {m : Memory} (v : Byte) (hm : Memory.wfFrom lo m = true) (hlo : lo ≤ a)
    (ha : a < Config.memSize) : Memory.wfFrom lo (Memory.put a v m) = true := by
  induction m generalizing lo with
  | nil =>
    unfold Memory.put
    split
    · rfl
    · simpa [Memory.wfFrom_cons] using ⟨hlo, ha, ‹_›⟩
  | cons c rest ih =>
    obtain ⟨b, w⟩ := c
    have hm' := hm
    rw [Memory.wfFrom_cons] at hm
    obtain ⟨h1, h2, h3, h4⟩ := hm
    unfold Memory.put
    split
    · split
      · exact hm'
      · simp only [Memory.wfFrom_cons]
        exact ⟨hlo, ha, ‹_›, by omega, h2, h3, h4⟩
    · split
      · subst a
        split
        · exact Memory.wfFrom_mono (by omega) h4
        · rw [Memory.wfFrom_cons]
          exact ⟨h1, h2, ‹_›, h4⟩
      · rw [Memory.wfFrom_cons]
        exact ⟨h1, h2, h3, ih h4 (by omega)⟩

/-- Every store keeps the canonical form. -/
theorem Memory.write_wf {m : Memory} (a : Nat) (v : Byte) (hm : m.wf = true) : (m.write a v).wf = true := by
  unfold Memory.write
  split
  · exact Memory.put_wfFrom v hm (by omega) ‹_›
  · exact hm

/-- Every block of stores keeps the canonical form. -/
theorem Memory.writeBlock_wf {m : Memory} (base : Nat) (bytes : List Byte) (hm : m.wf = true) :
    (m.writeBlock base bytes).wf = true := by
  induction bytes generalizing m base with
  | nil => exact hm
  | cons b rest ih => exact ih (base + 1) (Memory.write_wf base b hm)

/-! ### Reads after writes -/

theorem Memory.read_put {lo : Nat} {m : Memory} (hm : Memory.wfFrom lo m = true) (a c : Nat) (v : Byte) :
    (Memory.put a v m).read c = if c = a then v else m.read c := by
  induction m generalizing lo with
  | nil =>
    by_cases hv : v = Memory.unlisted a <;> by_cases hc : c = a <;> simp [Memory.put, Memory.read, hv, hc]
  | cons e rest ih =>
    obtain ⟨b, w⟩ := e
    rw [Memory.wfFrom_cons] at hm
    obtain ⟨-, -, -, h4⟩ := hm
    unfold Memory.put
    split
    · rename_i hab
      by_cases hv : v = Memory.unlisted a
      · have hread : Memory.read ((b, w) :: rest) a = Memory.unlisted a := by
          have : a ≠ b := by omega
          simp only [Memory.read, this, if_false]
          exact Memory.read_of_wfFrom h4 (by omega)
        by_cases hc : c = a
        · subst hc; simp [hv, hread]
        · simp [hv, hc]
      · simp [hv, Memory.read]
    · split
      · subst a
        by_cases hv : v = Memory.unlisted b
        · by_cases hc : c = b
          · subst hc; simp [hv, Memory.read_of_wfFrom h4]
          · simp [hv, hc, Memory.read]
        · by_cases hc : c = b <;> simp [hv, hc, Memory.read]
      · have hab : a ≠ b := ‹_›
        by_cases hc : c = b
        · have : c ≠ a := by omega
          simp [Memory.read, hc, Ne.symm hab]
        · simp [Memory.read, hc, ih h4]

/-- R55 on a canonical memory: a byte reads as last written, and every other byte as before. -/
theorem Memory.read_write {m : Memory} (hm : m.wf = true) {a : Nat} (ha : a < Config.memSize) (c : Nat) (v : Byte) :
    (m.write a v).read c = if c = a then v else m.read c := by
  rw [Memory.write, if_pos ha]
  exact Memory.read_put hm a c v

/-- Consecutive stores that lie in memory: the bytes stored, and every other byte as before. -/
theorem Memory.read_writeBlock {m : Memory} (hm : m.wf = true) (base : Nat) (bytes : List Byte)
    (h : base + bytes.length ≤ Config.memSize) (c : Nat) :
    (m.writeBlock base bytes).read c =
      if hc : base ≤ c ∧ c < base + bytes.length then bytes[c - base]'(by omega) else m.read c := by
  induction bytes generalizing m base with
  | nil =>
    simp [Memory.writeBlock]
  | cons b rest ih =>
    rw [List.length_cons] at h
    rw [Memory.writeBlock, ih (Memory.write_wf base b hm) (base + 1) (by omega), Memory.read_write hm (by omega)]
    by_cases h0 : c = base
    · subst h0; simp
    · by_cases h1 : base + 1 ≤ c ∧ c < base + 1 + rest.length
      · have h2 : base ≤ c ∧ c < base + (rest.length + 1) := by omega
        have h3 : c - base = (c - (base + 1)) + 1 := by omega
        simp [h1, h2, h3]
      · have h2 : ¬ (base ≤ c ∧ c < base + (rest.length + 1)) := by omega
        rw [dif_neg h1, if_neg h0, dif_neg (by rw [List.length_cons]; exact h2)]

/-- Bytes outside a block of stores read as before. -/
theorem Memory.read_writeBlock_outside {m : Memory} (hm : m.wf = true) {base : Nat} {bytes : List Byte}
    (h : base + bytes.length ≤ Config.memSize) {c : Nat} (hc : c < base ∨ base + bytes.length ≤ c) :
    (m.writeBlock base bytes).read c = m.read c := by
  rw [Memory.read_writeBlock hm base bytes h, dif_neg (by omega)]

/-- Bytes inside a block of stores read as stored. -/
theorem Memory.read_writeBlock_inside {m : Memory} (hm : m.wf = true) {base : Nat} {bytes : List Byte}
    (h : base + bytes.length ≤ Config.memSize) {k : Nat} (hk : k < bytes.length) :
    (m.writeBlock base bytes).read (base + k) = bytes[k] := by
  rw [Memory.read_writeBlock hm base bytes h, dif_pos (by omega)]
  simp

@[simp] theorem Memory.readBlock_length (m : Memory) (base n : Nat) : (m.readBlock base n).length = n := by
  induction n generalizing base with
  | zero => rfl
  | succ n ih => simp [Memory.readBlock, ih]

/-- The bytes of a block are those of memory, lowest address first. -/
theorem Memory.readBlock_getElem (m : Memory) (base n k : Nat) (h : k < (m.readBlock base n).length) :
    (m.readBlock base n)[k] = m.read (base + k) := by
  induction n generalizing base k with
  | zero => simp [Memory.readBlock] at h
  | succ n ih =>
    cases k with
    | zero => simp [Memory.readBlock]
    | succ k =>
      simp only [Memory.readBlock, List.getElem_cons_succ]
      rw [ih]
      congr 1; omega

/-- Two memories that read alike have blocks that are alike. -/
theorem Memory.readBlock_congr {m m' : Memory} (h : ∀ a, m'.read a = m.read a) (base n : Nat) :
    m'.readBlock base n = m.readBlock base n := by
  induction n generalizing base with
  | zero => rfl
  | succ n ih => simp [Memory.readBlock, h, ih]

/-! ### One memory, one list -/

theorem Memory.eq_of_read {lo : Nat} {m m' : Memory} (hm : Memory.wfFrom lo m = true) (hm' : Memory.wfFrom lo m' = true)
    (h : ∀ a, m.read a = m'.read a) : m = m' := by
  induction m generalizing lo m' with
  | nil =>
    cases m' with
    | nil => rfl
    | cons c rest =>
      obtain ⟨a, v⟩ := c
      rw [Memory.wfFrom_cons] at hm'
      have := h a
      simp only [Memory.read, if_true] at this
      exact absurd this.symm hm'.2.2.1
  | cons c rest ih =>
    obtain ⟨a, v⟩ := c
    have hm₀ := hm
    rw [Memory.wfFrom_cons] at hm
    cases m' with
    | nil =>
      have := h a
      simp only [Memory.read, if_true] at this
      exact absurd this hm.2.2.1
    | cons c' rest' =>
      obtain ⟨b, w⟩ := c'
      have hm₀' := hm'
      rw [Memory.wfFrom_cons] at hm'
      obtain ⟨-, -, hv, hr⟩ := hm
      obtain ⟨-, -, hw, hr'⟩ := hm'
      have ha := h a
      have hb := h b
      have hab : a = b := by
        rcases Nat.lt_trichotomy a b with hlt | heq | hgt
        · have hne : a ≠ b := by omega
          simp only [Memory.read, if_true, hne, if_false] at ha
          exact absurd (ha.trans (Memory.read_of_wfFrom hr' (by omega))) hv
        · exact heq
        · have hne : b ≠ a := by omega
          simp only [Memory.read, if_true, hne, if_false] at hb
          exact absurd (hb.symm.trans (Memory.read_of_wfFrom hr (by omega))) hw
      subst hab
      simp only [Memory.read, if_true] at ha
      subst ha
      congr 1
      refine ih hr hr' fun c => ?_
      by_cases hc : c = a
      · subst hc
        rw [Memory.read_of_wfFrom hr (by omega), Memory.read_of_wfFrom hr' (by omega)]
      · have := h c
        simpa only [Memory.read, hc, if_false] using this

/-- Canonical memories that read alike everywhere are equal data. -/
theorem Memory.ext_of_wf {m m' : Memory} (hm : m.wf = true) (hm' : m'.wf = true) (h : ∀ a, m.read a = m'.read a) :
    m = m' :=
  Memory.eq_of_read hm hm' h

theorem reset_memory_wf : State.reset.mem.wf = true := rfl

end Sys2Proof.Machine
end

