-- ==== Sys2Proof/Laws/Ops.lean ====
section
/-! SUPPORT. One lemma for each shared operation that says what it can do, cited instead of its definition. -/

namespace Sys2Proof.Machine

/-! ### Checks and fetch -/

/-- R54, R191: the access happens where all of it lies in memory. -/
theorem State.checked_inside (s t : State) {base len : Nat} (h : len = 0 ∨ base + len - 1 ≤ 0xFFF) :
    s.checked base len t = t := by
  rw [State.checked, if_neg (by omega)]

/-- R186: else the failure, with the lowest offending address. -/
theorem State.checked_outside (s t : State) {base len : Nat} (h : 0 < len) (h' : 0xFFF < base + len - 1) :
    s.checked base len t = s.raise (.outOfBounds (max base 0x1000)) := by
  rw [State.checked, if_pos ⟨h, h'⟩]

/-- A checked access is one or the other. -/
theorem State.checked_cases (s t : State) (base len : Nat) :
    (len = 0 ∨ base + len - 1 ≤ 0xFFF) ∧ s.checked base len t = t ∨
    (0 < len ∧ 0xFFF < base + len - 1) ∧ s.checked base len t = s.raise (.outOfBounds (max base 0x1000)) := by
  by_cases h : 0 < len ∧ 0xFFF < base + len - 1
  · exact .inr ⟨h, s.checked_outside t h.1 h.2⟩
  · have h' : len = 0 ∨ base + len - 1 ≤ 0xFFF := by omega
    exact .inl ⟨h', s.checked_inside t h'⟩

theorem memRead_inside (m : Memory) {a : Nat} (h : a ≤ 0xFFF) : memRead m a = .ok (m.read a) := by
  rw [memRead, if_neg (by simp only [Config.memSize]; omega)]

theorem memRead_outside (m : Memory) {a : Nat} (h : 0xFFF < a) : memRead m a = .error (.outOfBounds a) := by
  rw [memRead, if_pos (by simp only [Config.memSize]; omega)]

/-- R102: a fetch from 0x000 to 0xFFE gives the two bytes at `PC`. -/
theorem fetch_inside (s : State) (h : s.pc.toNat ≤ 0xFFE) : fetch s = .ok s.opAtPc := by
  rw [fetch, memRead_inside _ (by omega), memRead_inside _ (by omega)]
  rfl

/-- R102: above 0xFFE the lowest offending address is `PC` itself, or 0x1000 where `PC` is 0xFFF. -/
theorem fetch_outside (s : State) (h : 0xFFE < s.pc.toNat) :
    fetch s = .error (.outOfBounds (if 0xFFF < s.pc.toNat then s.pc.toNat else 0x1000)) := by
  by_cases h' : 0xFFF < s.pc.toNat
  · rw [fetch, memRead_outside _ h', if_pos h']
  · rw [fetch, memRead_inside _ (by omega), memRead_outside _ (by omega), if_neg h']
    have : s.pc.toNat + 1 = 0x1000 := by omega
    rw [this]

/-! ### The step event -/

theorem stepEvent_halted (s : State) {f : Fault} (h : s.fault = some f) : stepEvent s = .next s := by
  simp [stepEvent, h]

theorem stepEvent_blocked (s : State) (h : s.wait = true) : stepEvent s = .next s := by
  by_cases hf : s.fault.isSome <;> simp [stepEvent, hf, h]

theorem stepEvent_fetch_fails (s : State) (hr : s.Running) (h : 0xFFE < s.pc.toNat) :
    stepEvent s = .next (s.raise (.outOfBounds (if 0xFFF < s.pc.toNat then s.pc.toNat else 0x1000))) := by
  obtain ⟨hf, hw⟩ := hr
  rw [stepEvent, hf, hw, fetch_outside s h]
  rfl

theorem stepEvent_decode_fails (s : State) (hr : s.Running) (h : s.pc.toNat ≤ 0xFFE) (hd : decodeOp s.opAtPc = none) :
    stepEvent s = .next (s.raise (.invalidOpcode s.opAtPc)) := by
  obtain ⟨hf, hw⟩ := hr
  rw [stepEvent, hf, hw, fetch_inside s h]
  simp [hd]

theorem stepEvent_executes (s : State) (hr : s.Running) (h : s.pc.toNat ≤ 0xFFE) {i : Instr}
    (hd : decodeOp s.opAtPc = some i) : stepEvent s = exec i s := by
  obtain ⟨hf, hw⟩ := hr
  rw [stepEvent, hf, hw, fetch_inside s h]
  simp [hd]

/-- What a step event can do: nothing, where the core is halted or blocked; fail in fetch; fail in decode; execute. -/
theorem stepEvent_cases (s : State) :
    ((∃ f, s.fault = some f) ∨ s.wait = true) ∧ stepEvent s = .next s ∨
    s.Running ∧ 0xFFE < s.pc.toNat ∧
      stepEvent s = .next (s.raise (.outOfBounds (if 0xFFF < s.pc.toNat then s.pc.toNat else 0x1000))) ∨
    s.Running ∧ s.pc.toNat ≤ 0xFFE ∧ decodeOp s.opAtPc = none ∧
      stepEvent s = .next (s.raise (.invalidOpcode s.opAtPc)) ∨
    ∃ i, s.Running ∧ s.pc.toNat ≤ 0xFFE ∧ decodeOp s.opAtPc = some i ∧ stepEvent s = exec i s := by
  by_cases hf : ∃ f, s.fault = some f
  · obtain ⟨f, hf⟩ := hf
    exact .inl ⟨.inl ⟨f, hf⟩, stepEvent_halted s hf⟩
  by_cases hw : s.wait = true
  · exact .inl ⟨.inr hw, stepEvent_blocked s hw⟩
  have hr : s.Running := by
    constructor
    · cases h : s.fault with
      | none => rfl
      | some f => exact absurd ⟨f, h⟩ hf
    · simpa using hw
  right
  by_cases hp : 0xFFE < s.pc.toNat
  · exact .inl ⟨hr, hp, stepEvent_fetch_fails s hr hp⟩
  right
  have hp' : s.pc.toNat ≤ 0xFFE := by omega
  cases hd : decodeOp s.opAtPc with
  | none => exact .inl ⟨hr, hp', rfl, stepEvent_decode_fails s hr hp' hd⟩
  | some i => exact .inr ⟨i, hr, hp', rfl, stepEvent_executes s hr hp' hd⟩

/-- A step of the machine is the step event, or the first event of the schedule. -/
theorem step_cases {s t : State} (h : step s = .next t) :
    s.host = [] ∧ stepEvent s = .next t ∨
    ∃ e rest u, s.host = e :: rest ∧ hostEvent e s = .next u ∧ t = u.setHost rest := by
  rw [step, nextEvent] at h
  cases hh : s.host with
  | nil => rw [hh] at h; exact .inl ⟨rfl, h⟩
  | cons e rest =>
    rw [hh] at h
    simp only at h
    cases hu : hostEvent e s with
    | next u =>
      rw [hu] at h
      injection h with h
      exact .inr ⟨e, rest, u, rfl, hu, h.symm⟩
    | fault f => rw [hu] at h; cases h
    | refused r => rw [hu] at h; cases h

/-! ### Register blocks -/

@[simp] theorem State.firstRegs_length (s : State) (x : Reg) : (s.firstRegs x).length = x.val + 1 := by
  simp [State.firstRegs]

/-- R160: byte `k` of the block stored is `V[k]`. -/
theorem State.firstRegs_getElem (s : State) (x r : Reg) (h : r.val < (s.firstRegs x).length) :
    (s.firstRegs x)[r.val] = s.getV r := by
  simp [State.firstRegs, State.getV]

/-- R161: the registers below `n` are loaded from memory, the others stay. -/
theorem loadRegs_getElem (m : Memory) (base : Nat) (v : RegFile) (n : Nat) (hn : n ≤ 16) (k : Nat) (hk : k < 16) :
    (loadRegs m base v n)[k] = if k < n then m.read (base + k) else v[k] := by
  induction n with
  | zero => simp [loadRegs]
  | succ n ih =>
    rw [loadRegs, Vector.getElem_setIfInBounds, ih (by omega)]
    by_cases h : n = k
    · subst h; simp
    · by_cases h' : k < n
      · have : k < n + 1 := by omega
        simp [h, h', this]
      · have : ¬ k < n + 1 := by omega
        simp [h, h', this]

/-! ### Arithmetic, in natural numbers (43_alu.md R135) -/

theorem addResult_toNat (a b : Byte) : (addResult a b).toNat = (a.toNat + b.toNat) % 256 := by simp [addResult]

theorem subResult_toNat (a b : Byte) : (subResult a b).toNat = (a.toNat + 256 - b.toNat) % 256 := by simp [subResult]

theorem shrResult_toNat (v : Byte) : (shrResult v).toNat = v.toNat / 2 := by
  have := v.isLt
  simp only [shrResult, BitVec.toNat_ofNat]
  omega

theorem shlResult_toNat (v : Byte) : (shlResult v).toNat = v.toNat * 2 % 256 := by simp [shlResult]

theorem flagByte_toNat (c : Bool) : (flagByte c).toNat = if c then 1 else 0 := by cases c <;> rfl

theorem flagByte_zero_or_one (c : Bool) : flagByte c = 0 ∨ flagByte c = 1 := by cases c <;> simp [flagByte]

theorem flagByte_eq_one (c : Bool) : flagByte c = 1 ↔ c = true := by cases c <;> simp [flagByte]

theorem shrOut_toNat (v : Byte) : (flagByte (shrOut v)).toNat = v.toNat % 2 := by
  rw [flagByte_toNat, shrOut, BitVec.getLsbD, Nat.testBit_zero]
  rcases Nat.mod_two_eq_zero_or_one v.toNat with h | h <;> simp [h]

theorem shlOut_toNat (v : Byte) : (flagByte (shlOut v)).toNat = v.toNat / 128 := by
  have := v.isLt
  rw [flagByte_toNat, shlOut, BitVec.getLsbD, Nat.testBit_eq_decide_div_mod_eq]
  have h : v.toNat / 128 = 0 ∨ v.toNat / 128 = 1 := by omega
  rcases h with h | h <;> simp [h]

theorem zext16_toNat (nnn : BitVec 12) : (zext16 nnn).toNat = nnn.toNat := by
  have := nnn.isLt
  simp only [zext16, BitVec.toNat_setWidth]
  omega

theorem zextByte_toNat (b : Byte) : (zextByte b).toNat = b.toNat := by
  have := b.isLt
  simp only [zextByte, BitVec.toNat_setWidth]
  omega

theorem zextKey_toNat (k : BitVec 4) : (zextKey k).toNat = k.toNat := by
  have := k.isLt
  simp only [zextKey, BitVec.toNat_setWidth]
  omega

theorem glyphAddress_toNat (b : Byte) : (glyphAddress b).toNat = 5 * b.toNat := by
  have := b.isLt
  simp only [glyphAddress, BitVec.toNat_ofNat]
  omega

theorem indexSum_toNat (i : Word) (b : Byte) : (indexSum i b).toNat = (i.toNat + b.toNat) % 65536 := by simp [indexSum]

theorem keyOf_toNat (b : Byte) : (keyOf b).toNat = b.toNat % 16 := by simp [keyOf]

theorem countDown_toNat (t : Timer) : (countDown t).toNat = t.toNat - 1 := by
  have := t.isLt
  unfold countDown
  split
  · subst t; rfl
  · have h : t.toNat ≠ 0 := fun h => ‹¬ t = 0› (BitVec.eq_of_toNat_eq h)
    have h1 : (1 : Timer).toNat = 1 := rfl
    simp only [BitVec.toNat_sub, h1, Config.timerWidth] at *
    omega

end Sys2Proof.Machine
end

