-- ==== Sys2Proof/Laws/Display.lean ====
section
/-! SUPPORT. What drawing does to the frame, pixel by pixel (45_display.md R168): no two bits of one sprite land on one
pixel, so every pixel is toggled at most once. -/

namespace Sys2Proof.Machine

theorem Frame.pixel_toggle (d : Frame) (x px : Fin 64) (y py : Fin 32) :
    Frame.pixel (Frame.toggle d x y) px py = (Frame.pixel d px py ^^ decide (px = x ∧ py = y)) := by
  by_cases hy : py = y
  · subst hy
    by_cases hx : px = x
    · subst hx; simp [Frame.pixel, Frame.toggle]
    · have : x.val ≠ px.val := fun h => hx (Fin.ext h.symm)
      simp [Frame.pixel, Frame.toggle, hx, this]
  · have : y.val ≠ py.val := fun h => hy (Fin.ext h.symm)
    simp [Frame.pixel, Frame.toggle, hy, this]

@[simp] theorem Frame.pixel_clear (x : Fin 64) (y : Fin 32) : Frame.pixel Frame.clear x y = false := by
  simp [Frame.pixel, Frame.clear]

/-- The column of a sprite at `x0` that falls on column `px` of the frame, 0 to 63. -/
def spriteColumn (x0 : Byte) (px : Fin 64) : Nat := (px.val + 256 - x0.toNat) % 64

/-- The row of a sprite at `y0` that falls on row `py` of the frame, 0 to 31. -/
def spriteRow (y0 : Byte) (py : Fin 32) : Nat := (py.val + 256 - y0.toNat) % 32

theorem wrapColumn_eq_iff (x0 : Byte) (px : Fin 64) {c : Nat} (hc : c < 64) :
    px = wrapColumn x0 c ↔ spriteColumn x0 px = c := by
  have h1 := x0.isLt
  have h2 := px.isLt
  rw [Fin.ext_iff]
  simp only [wrapColumn, spriteColumn, Fin.val_ofNat]
  omega

theorem wrapRow_eq_iff (y0 : Byte) (py : Fin 32) {r : Nat} (hr : r < 32) :
    py = wrapRow y0 r ↔ spriteRow y0 py = r := by
  have h1 := y0.isLt
  have h2 := py.isLt
  rw [Fin.ext_iff]
  simp only [wrapRow, spriteRow, Fin.val_ofNat]
  omega

theorem spriteColumn_wrapColumn (x0 : Byte) {c : Nat} (hc : c < 64) : spriteColumn x0 (wrapColumn x0 c) = c :=
  (wrapColumn_eq_iff x0 _ hc).mp rfl

theorem spriteRow_wrapRow (y0 : Byte) {r : Nat} (hr : r < 32) : spriteRow y0 (wrapRow y0 r) = r :=
  (wrapRow_eq_iff y0 _ hr).mp rfl

/-- The bit of one row byte, its first `n` columns, that falls on column `px`. -/
def rowBit (x0 b : Byte) (n : Nat) (px : Fin 64) : Bool :=
  decide (spriteColumn x0 px < n) && b.getLsbD (7 - spriteColumn x0 px)

theorem rowBit_succ (x0 b : Byte) (n : Nat) (px : Fin 64) :
    rowBit x0 b (n + 1) px = (rowBit x0 b n px ^^ (decide (spriteColumn x0 px = n) && b.getLsbD (7 - n))) := by
  unfold rowBit
  by_cases h : spriteColumn x0 px = n
  · subst h; simp
  · by_cases h' : spriteColumn x0 px < n
    · have : spriteColumn x0 px < n + 1 := by omega
      simp [h, h', this]
    · have : ¬ spriteColumn x0 px < n + 1 := by omega
      simp [h, h', this]

/-- One row byte toggles the pixels of its frame row that its 1 bits fall on. -/
theorem drawColumns_pixel (x0 y0 b : Byte) {r : Nat} (hr : r < 32) (acc : Frame × Bool) {n : Nat} (hn : n ≤ 8)
    (px : Fin 64) (py : Fin 32) :
    Frame.pixel (drawColumns x0 y0 b r acc n).1 px py =
      (Frame.pixel acc.1 px py ^^ (decide (spriteRow y0 py = r) && rowBit x0 b n px)) := by
  induction n with
  | zero => simp [drawColumns, rowBit]
  | succ n ih =>
    rw [drawColumns, drawPixel, rowBit_succ]
    by_cases hb : b.getLsbD (7 - n) = true
    · simp only [hb, if_true, Frame.pixel_toggle, ih (by omega), wrapColumn_eq_iff x0 px (c := n) (by omega),
        wrapRow_eq_iff y0 py hr]
      by_cases h1 : spriteRow y0 py = r <;> by_cases h2 : spriteColumn x0 px = n <;> simp [h1, h2]
    · simp only [hb, if_false, ih (by omega), Bool.false_eq_true]
      simp

/-- One row byte collides where one of its 1 bits falls on a pixel that was on. -/
theorem drawColumns_collision (x0 y0 b : Byte) {r : Nat} (hr : r < 32) (acc : Frame × Bool) {n : Nat} (hn : n ≤ 8) :
    (drawColumns x0 y0 b r acc n).2 = true ↔
      acc.2 = true ∨ ∃ px py, Frame.pixel acc.1 px py = true ∧ spriteRow y0 py = r ∧ rowBit x0 b n px = true := by
  induction n with
  | zero => simp [drawColumns, rowBit]
  | succ n ih =>
    have hcol : spriteColumn x0 (wrapColumn x0 n) = n := spriteColumn_wrapColumn x0 (by omega)
    have hrow : spriteRow y0 (wrapRow y0 r) = r := spriteRow_wrapRow y0 hr
    have hsplit : ∀ px, rowBit x0 b (n + 1) px = true ↔
        rowBit x0 b n px = true ∨ (px = wrapColumn x0 n ∧ b.getLsbD (7 - n) = true) := by
      intro px
      rw [rowBit_succ, wrapColumn_eq_iff x0 px (by omega)]
      by_cases h : spriteColumn x0 px = n <;> simp [h, rowBit]
    rw [drawColumns, drawPixel]
    by_cases hb : b.getLsbD (7 - n) = true
    · have hpix : Frame.pixel (drawColumns x0 y0 b r acc n).1 (wrapColumn x0 n) (wrapRow y0 r) =
          Frame.pixel acc.1 (wrapColumn x0 n) (wrapRow y0 r) := by
        rw [drawColumns_pixel x0 y0 b hr acc (by omega)]
        simp [rowBit, hcol]
      simp only [hb, if_true, Bool.or_eq_true, ih (by omega), hpix, hsplit, and_true]
      constructor
      · rintro ((h | ⟨px, py, h1, h2, h3⟩) | h)
        · exact .inl h
        · exact .inr ⟨px, py, h1, h2, .inl h3⟩
        · exact .inr ⟨_, _, h, hrow, .inr rfl⟩
      · rintro (h | ⟨px, py, h1, h2, h3 | h3⟩)
        · exact .inl (.inl h)
        · exact .inl (.inr ⟨px, py, h1, h2, h3⟩)
        · subst h3
          rw [← wrapRow_eq_iff y0 py hr] at h2
          subst h2
          exact .inr h1
    · simp only [hb, Bool.false_eq_true, if_false, ih (by omega), hsplit, and_false, or_false]

/-- The bit of a sprite, its rows numbered from `r0`, that falls on a pixel. -/
def rowsBit (x0 y0 : Byte) (r0 : Nat) (rows : List Byte) (px : Fin 64) (py : Fin 32) : Bool :=
  decide (r0 ≤ spriteRow y0 py) && rowBit x0 (rows.getD (spriteRow y0 py - r0) 0) 8 px

theorem rowsBit_cons (x0 y0 : Byte) (r0 : Nat) (b : Byte) (rest : List Byte) (px : Fin 64) (py : Fin 32) :
    rowsBit x0 y0 r0 (b :: rest) px py =
      ((decide (spriteRow y0 py = r0) && rowBit x0 b 8 px) ^^ rowsBit x0 y0 (r0 + 1) rest px py) := by
  unfold rowsBit
  by_cases h : spriteRow y0 py = r0
  · have : ¬ r0 + 1 ≤ spriteRow y0 py := by omega
    simp [h]
  · by_cases h' : r0 + 1 ≤ spriteRow y0 py
    · have h1 : r0 ≤ spriteRow y0 py := by omega
      have h2 : spriteRow y0 py - r0 = (spriteRow y0 py - (r0 + 1)) + 1 := by omega
      simp [h, h', h1, h2]
    · have h1 : ¬ r0 ≤ spriteRow y0 py := by omega
      simp [h, h', h1]

/-- A sprite toggles the pixels its 1 bits fall on (R168). -/
theorem drawRows_pixel (x0 y0 : Byte) (rows : List Byte) (r0 : Nat) (hr : r0 + rows.length ≤ 32) (acc : Frame × Bool)
    (px : Fin 64) (py : Fin 32) :
    Frame.pixel (drawRows x0 y0 r0 acc rows).1 px py =
      (Frame.pixel acc.1 px py ^^ rowsBit x0 y0 r0 rows px py) := by
  induction rows generalizing r0 acc with
  | nil => simp [drawRows, rowsBit, rowBit]
  | cons b rest ih =>
    rw [List.length_cons] at hr
    rw [drawRows, ih (r0 + 1) (by omega), drawColumns_pixel x0 y0 b (by omega) acc (by omega), rowsBit_cons,
      Bool.xor_assoc]

/-- A sprite collides where one of its 1 bits falls on a pixel that was on (R168). -/
theorem drawRows_collision (x0 y0 : Byte) (rows : List Byte) (r0 : Nat) (hr : r0 + rows.length ≤ 32)
    (acc : Frame × Bool) :
    (drawRows x0 y0 r0 acc rows).2 = true ↔
      acc.2 = true ∨ ∃ px py, Frame.pixel acc.1 px py = true ∧ rowsBit x0 y0 r0 rows px py = true := by
  induction rows generalizing r0 acc with
  | nil => simp [drawRows, rowsBit, rowBit]
  | cons b rest ih =>
    rw [List.length_cons] at hr
    rw [drawRows, ih (r0 + 1) (by omega), drawColumns_collision x0 y0 b (by omega) acc (by omega), or_assoc]
    refine or_congr_right ?_
    have hlater : ∀ px py, rowsBit x0 y0 (r0 + 1) rest px py = true → spriteRow y0 py ≠ r0 := by
      intro px py h
      have h : r0 + 1 ≤ spriteRow y0 py := by
        unfold rowsBit at h
        simp only [Bool.and_eq_true, decide_eq_true_eq] at h
        exact h.1
      omega
    constructor
    · rintro (⟨px, py, h1, h2, h3⟩ | ⟨px, py, h1, h2⟩)
      · refine ⟨px, py, h1, ?_⟩
        rw [rowsBit_cons]
        have : rowsBit x0 y0 (r0 + 1) rest px py = false := by
          cases hb : rowsBit x0 y0 (r0 + 1) rest px py
          · rfl
          · exact absurd h2 (hlater px py hb)
        simp [h2, h3, this]
      · have hne := hlater px py h2
        rw [drawColumns_pixel x0 y0 b (by omega) acc (by omega)] at h1
        refine ⟨px, py, by simpa [hne] using h1, ?_⟩
        rw [rowsBit_cons]
        simp [hne, h2]
    · rintro ⟨px, py, h1, h2⟩
      rw [rowsBit_cons] at h2
      by_cases hrow : spriteRow y0 py = r0
      · have : rowsBit x0 y0 (r0 + 1) rest px py = false := by
          cases hb : rowsBit x0 y0 (r0 + 1) rest px py
          · rfl
          · exact absurd hrow (hlater px py hb)
        exact .inl ⟨px, py, h1, hrow, by simpa [hrow, this] using h2⟩
      · refine .inr ⟨px, py, ?_, by simpa [hrow] using h2⟩
        rw [drawColumns_pixel x0 y0 b (by omega) acc (by omega)]
        simpa [hrow] using h1

/-- R167, R168: the sprite bit of DXYN, read off memory, is that of the rows it has read. -/
theorem spriteBit_eq (s : State) (x y : Reg) (n : BitVec 4) (px : Fin 64) (py : Fin 32) :
    spriteBit s x y n px py = rowsBit (s.getV x) (s.getV y) 0 (s.spriteRows n) px py := by
  unfold spriteBit rowsBit rowBit
  rw [show (px.val + 256 - (s.getV x).toNat) % 64 = spriteColumn (s.getV x) px from rfl,
    show (py.val + 256 - (s.getV y).toNat) % 32 = spriteRow (s.getV y) py from rfl]
  by_cases h : spriteRow (s.getV y) py < n.toNat
  · have hl : spriteRow (s.getV y) py < (s.spriteRows n).length := by simpa [State.spriteRows] using h
    have hg : (s.spriteRows n).getD (spriteRow (s.getV y) py - 0) 0 =
        s.mem.read (s.i.toNat + spriteRow (s.getV y) py) := by
      rw [Nat.sub_zero, List.getD_eq_getElem _ _ hl]
      exact Memory.readBlock_getElem _ _ _ _ hl
    rw [hg]
    simp [h]
  · have hl : (s.spriteRows n).length ≤ spriteRow (s.getV y) py := by simpa [State.spriteRows] using h
    simp [h, List.getElem?_eq_none hl]

end Sys2Proof.Machine
end

