-- ==== Sys2Proof/Laws/Encoding.lean ====
section
/-! SUPPORT. The fields of an encoded word (30_encoding.md R82): what each format puts where. -/

namespace Sys2Proof

@[simp] theorem nibbleReg_regNibble (x : Reg) : nibbleReg (regNibble x) = x := by
  have := x.isLt
  apply Fin.ext
  simp only [nibbleReg, regNibble, BitVec.toNat_ofNat]
  omega

@[simp] theorem regNibble_nibbleReg (n : BitVec 4) : regNibble (nibbleReg n) = n := by
  simp [nibbleReg, regNibble]

theorem append_toNat {m n : Nat} (a : BitVec m) (b : BitVec n) : (a ++ b).toNat = a.toNat * 2 ^ n + b.toNat := by
  rw [BitVec.toNat_append, Nat.shiftLeft_eq, Nat.mul_comm, Nat.two_pow_add_eq_or_of_lt b.isLt]

theorem slice_toNat (op : Word) (lo len : Nat) : (op.extractLsb' lo len).toNat = op.toNat / 2 ^ lo % 2 ^ len := by
  simp [Nat.shiftRight_eq_div_pow]

/-! ### `FMT_NNN` -/

theorem encodeNNN_n0 (n0 : BitVec 4) (nnn : BitVec 12) : nibbleAt (encodeNNN n0 nnn) 12 = n0 := by
  apply BitVec.eq_of_toNat_eq
  have := n0.isLt; have := nnn.isLt
  rw [nibbleAt, slice_toNat, encodeNNN, append_toNat]
  omega

theorem encodeNNN_nnn (n0 : BitVec 4) (nnn : BitVec 12) : fieldNNN (encodeNNN n0 nnn) = nnn := by
  apply BitVec.eq_of_toNat_eq
  have := n0.isLt; have := nnn.isLt
  rw [fieldNNN, slice_toNat, encodeNNN, append_toNat]
  omega

/-! ### `FMT_XNN` and `FMT_X` -/

theorem encodeXNN_toNat (n0 : BitVec 4) (x : Reg) (nn : Byte) :
    (encodeXNN n0 x nn).toNat = n0.toNat * 4096 + (regNibble x).toNat * 256 + nn.toNat := by
  rw [encodeXNN, append_toNat, append_toNat]
  omega

theorem encodeXNN_n0 (n0 : BitVec 4) (x : Reg) (nn : Byte) : nibbleAt (encodeXNN n0 x nn) 12 = n0 := by
  apply BitVec.eq_of_toNat_eq
  have := n0.isLt; have := (regNibble x).isLt; have := nn.isLt
  rw [nibbleAt, slice_toNat, encodeXNN_toNat]
  omega

theorem encodeXNN_x (n0 : BitVec 4) (x : Reg) (nn : Byte) : fieldX (encodeXNN n0 x nn) = x := by
  have h : nibbleAt (encodeXNN n0 x nn) 8 = regNibble x := by
    apply BitVec.eq_of_toNat_eq
    have := n0.isLt; have := (regNibble x).isLt; have := nn.isLt
    rw [nibbleAt, slice_toNat, encodeXNN_toNat]
    omega
  rw [fieldX, h, nibbleReg_regNibble]

theorem encodeXNN_nn (n0 : BitVec 4) (x : Reg) (nn : Byte) : fieldNN (encodeXNN n0 x nn) = nn := by
  apply BitVec.eq_of_toNat_eq
  have := n0.isLt; have := (regNibble x).isLt; have := nn.isLt
  rw [fieldNN, slice_toNat, encodeXNN_toNat]
  omega

/-! ### `FMT_XY` and `FMT_XYN` -/

theorem encodeXYN_toNat (n0 : BitVec 4) (x y : Reg) (n3 : BitVec 4) :
    (encodeXYN n0 x y n3).toNat =
      n0.toNat * 4096 + (regNibble x).toNat * 256 + (regNibble y).toNat * 16 + n3.toNat := by
  rw [encodeXYN, append_toNat, append_toNat, append_toNat]
  omega

theorem encodeXYN_n0 (n0 : BitVec 4) (x y : Reg) (n3 : BitVec 4) : nibbleAt (encodeXYN n0 x y n3) 12 = n0 := by
  apply BitVec.eq_of_toNat_eq
  have := n0.isLt; have := (regNibble x).isLt; have := (regNibble y).isLt; have := n3.isLt
  rw [nibbleAt, slice_toNat, encodeXYN_toNat]
  omega

theorem encodeXYN_x (n0 : BitVec 4) (x y : Reg) (n3 : BitVec 4) : fieldX (encodeXYN n0 x y n3) = x := by
  have h : nibbleAt (encodeXYN n0 x y n3) 8 = regNibble x := by
    apply BitVec.eq_of_toNat_eq
    have := n0.isLt; have := (regNibble x).isLt; have := (regNibble y).isLt; have := n3.isLt
    rw [nibbleAt, slice_toNat, encodeXYN_toNat]
    omega
  rw [fieldX, h, nibbleReg_regNibble]

theorem encodeXYN_y (n0 : BitVec 4) (x y : Reg) (n3 : BitVec 4) : fieldY (encodeXYN n0 x y n3) = y := by
  have h : nibbleAt (encodeXYN n0 x y n3) 4 = regNibble y := by
    apply BitVec.eq_of_toNat_eq
    have := n0.isLt; have := (regNibble x).isLt; have := (regNibble y).isLt; have := n3.isLt
    rw [nibbleAt, slice_toNat, encodeXYN_toNat]
    omega
  rw [fieldY, h, nibbleReg_regNibble]

theorem encodeXYN_n3 (n0 : BitVec 4) (x y : Reg) (n3 : BitVec 4) : nibbleAt (encodeXYN n0 x y n3) 0 = n3 := by
  apply BitVec.eq_of_toNat_eq
  have := n0.isLt; have := (regNibble x).isLt; have := (regNibble y).isLt; have := n3.isLt
  rw [nibbleAt, slice_toNat, encodeXYN_toNat]
  omega

/-! ### Every word is its fields (R89) -/

theorem encodeNNN_of_fields (op : Word) : encodeNNN (nibbleAt op 12) (fieldNNN op) = op := by
  apply BitVec.eq_of_toNat_eq
  have := op.isLt
  rw [encodeNNN, append_toNat, nibbleAt, fieldNNN, slice_toNat, slice_toNat]
  omega

theorem encodeXNN_of_fields (op : Word) : encodeXNN (nibbleAt op 12) (fieldX op) (fieldNN op) = op := by
  apply BitVec.eq_of_toNat_eq
  have := op.isLt
  rw [encodeXNN_toNat, fieldX, regNibble_nibbleReg, nibbleAt, nibbleAt, fieldNN, slice_toNat, slice_toNat, slice_toNat]
  omega

theorem encodeXYN_of_fields (op : Word) :
    encodeXYN (nibbleAt op 12) (fieldX op) (fieldY op) (nibbleAt op 0) = op := by
  apply BitVec.eq_of_toNat_eq
  have := op.isLt
  rw [encodeXYN_toNat, fieldX, fieldY, regNibble_nibbleReg, regNibble_nibbleReg, nibbleAt, nibbleAt, nibbleAt, nibbleAt,
    slice_toNat, slice_toNat, slice_toNat, slice_toNat]
  omega

/-- The two bytes of a word make it up again (R81). -/
theorem opcodeWord_of_bytes (op : Word) : opcodeWord (op.extractLsb' 8 8) (op.extractLsb' 0 8) = op := by
  apply BitVec.eq_of_toNat_eq
  have := op.isLt
  rw [opcodeWord, append_toNat, slice_toNat, slice_toNat]
  omega

theorem opcodeWord_toNat (hi lo : Byte) : (opcodeWord hi lo).toNat = hi.toNat * 256 + lo.toNat := by
  exact append_toNat hi lo

/-! ### Words under the masks of the opcode table -/

theorem nibble_and (n : BitVec 4) : n &&& 0xF#4 = n := by
  rw [show 0xF#4 = BitVec.allOnes 4 from rfl, BitVec.and_allOnes]

theorem byte_and (b : Byte) : b &&& 0xFF#8 = b := by
  rw [show 0xFF#8 = BitVec.allOnes 8 from rfl, BitVec.and_allOnes]

theorem encodeNNN_masked (n0 : BitVec 4) (nnn : BitVec 12) : encodeNNN n0 nnn &&& 0xF000 = n0 ++ 0#12 := by
  rw [encodeNNN, show (0xF000 : Word) = 0xF#4 ++ 0#12 from rfl, BitVec.and_append]
  simp only [nibble_and, BitVec.and_zero]

theorem encodeXNN_masked (n0 : BitVec 4) (x : Reg) (nn : Byte) : encodeXNN n0 x nn &&& 0xF000 = n0 ++ 0#4 ++ 0#8 := by
  rw [encodeXNN, show (0xF000 : Word) = 0xF#4 ++ 0#4 ++ 0#8 from rfl, BitVec.and_append, BitVec.and_append]
  simp only [nibble_and, BitVec.and_zero]

theorem encodeXNN_masked_X (n0 : BitVec 4) (x : Reg) (nn : Byte) : encodeXNN n0 x nn &&& 0xF0FF = n0 ++ 0#4 ++ nn := by
  rw [encodeXNN, show (0xF0FF : Word) = 0xF#4 ++ 0#4 ++ 0xFF#8 from rfl, BitVec.and_append, BitVec.and_append]
  simp only [nibble_and, byte_and, BitVec.and_zero]

theorem encodeXYN_masked (n0 : BitVec 4) (x y : Reg) (n3 : BitVec 4) :
    encodeXYN n0 x y n3 &&& 0xF00F = n0 ++ 0#4 ++ 0#4 ++ n3 := by
  rw [encodeXYN, show (0xF00F : Word) = 0xF#4 ++ 0#4 ++ 0#4 ++ 0xF#4 from rfl, BitVec.and_append, BitVec.and_append,
    BitVec.and_append]
  simp only [nibble_and, BitVec.and_zero]

theorem encodeXYN_masked_N (n0 : BitVec 4) (x y : Reg) (n3 : BitVec 4) :
    encodeXYN n0 x y n3 &&& 0xF000 = n0 ++ 0#4 ++ 0#4 ++ 0#4 := by
  rw [encodeXYN, show (0xF000 : Word) = 0xF#4 ++ 0#4 ++ 0#4 ++ 0#4 from rfl, BitVec.and_append, BitVec.and_append,
    BitVec.and_append]
  simp only [nibble_and, BitVec.and_zero]

end Sys2Proof
end

