-- ==== Sys2Proof/Laws/Frames.lean ====
section
/-! SUPPORT. Small lemmas for frames (`KeepsAllBut`), and the shared operations with this hardware's parameters. -/

namespace Sys2Proof.Machine

theorem keepsAllBut_refl (parts : List Part) (s : State) : KeepsAllBut parts s s := by
  intro p _
  cases p <;> simp [Keeps]

/-- A failure changes `FAULT` alone (R190). -/
theorem keepsAllBut_raise {parts : List Part} (h : Part.fault ∈ parts) (s : State) (f : Fault) :
    KeepsAllBut parts s (s.raise f) := by
  intro p hp
  cases p <;> simp_all [Keeps]

/-- A checked access keeps what its success keeps, `FAULT` aside (R191). -/
theorem keepsAllBut_checked {parts : List Part} (h : Part.fault ∈ parts) {s t : State} (base len : Nat)
    (ht : KeepsAllBut parts s t) : KeepsAllBut parts s (s.checked base len t) := by
  rcases s.checked_cases t base len with ⟨_, e⟩ | ⟨_, e⟩ <;> rw [e]
  · exact ht
  · exact keepsAllBut_raise h s _

/-! ### This hardware's conventions (D4, D5) -/

@[simp] theorem State.stepIndex_hardware (s : State) (x : Reg) : s.stepIndex Config.iIncrement x = s := rfl

@[simp] theorem addToIndex_hardware (s : State) (x : Reg) :
    addToIndex Config.fx1eVf x s = s.setI (indexSum s.i (s.getV x)) := rfl

/-- R160, where all the bytes lie in memory. -/
theorem storeRegisters_inside (s : State) (x : Reg) (h : s.i.toNat + x.val ≤ 0xFFF) (increment : Bool) :
    storeRegisters increment x s =
      ((s.setMem (s.mem.writeBlock s.i.toNat (s.firstRegs x))).stepIndex increment x).advance :=
  s.checked_inside _ (by omega)

/-- R161, where all the bytes lie in memory. -/
theorem loadRegisters_inside (s : State) (x : Reg) (h : s.i.toNat + x.val ≤ 0xFFF) (increment : Bool) :
    loadRegisters increment x s =
      ((s.setRegs (loadRegs s.mem s.i.toNat s.v (x.val + 1))).stepIndex increment x).advance :=
  s.checked_inside _ (by omega)

/-- R159: the digits are the decimal ones. -/
theorem bcdDigits_toNat (b : Byte) :
    (bcdDigits b).map BitVec.toNat = [b.toNat / 100, b.toNat / 10 % 10, b.toNat % 10] := by
  have := b.isLt
  simp only [bcdDigits, List.map_cons, List.map_nil, BitVec.toNat_ofNat]
  congr 1
  · omega
  · congr 1
    · omega
    · congr 1
      omega

/-- R126 to R131: what a skip and the epilogue together add to `PC`. -/
theorem State.skipIf_advance_pc (s : State) (c : Bool) :
    ((s.skipIf c).advance).pc = s.pc + (if c = true then 4 else 2) := by
  cases c
  · rfl
  · show s.pc + 2 + 2 = s.pc + 4
    rw [BitVec.add_assoc]
    rfl

/-- The entry a push adds is the newest (R25). -/
@[simp] theorem State.stackEntry_push_newest (s : State) (w : Word) : (s.push w).stackEntry s.sp = some w := by
  simp [State.stackEntry, State.sp]

/-- A push leaves the older entries alone (R25). -/
theorem State.stackEntry_push_older (s : State) (w : Word) {k : Nat} (h : k < s.sp) :
    (s.push w).stackEntry k = s.stackEntry k := by
  have h : k < s.stack.reverse.length := by simpa [State.sp] using h
  simp only [State.stackEntry, State.push_stack, List.reverse_cons]
  exact List.getElem?_append_left h

end Sys2Proof.Machine
end

