-- ==== Sys2Proof/Laws/HostEvents.lean ====
section
/-! SUPPORT. What each host event and each sampled input can do, cited instead of its definition. -/

namespace Sys2Proof.Machine

/-! ### Sampled inputs -/

theorem State.sampledKeys_scheduled {s : State} {keys : Word} {rnd : Byte} {rest : List HostEvent}
    (h : s.host = .step keys rnd :: rest) : s.sampledKeys = keys := by
  simp [State.sampledKeys, h]

theorem State.sampledRnd_scheduled {s : State} {keys : Word} {rnd : Byte} {rest : List HostEvent}
    (h : s.host = .step keys rnd :: rest) : s.sampledRnd = rnd := by
  simp [State.sampledRnd, h]

/-! ### Events -/

/-- R107. -/
theorem State.load_fits (s : State) {bytes : List Byte} (h : bytes.length ≤ 3584) :
    s.load bytes = s.setMem (s.mem.writeBlock 0x200 bytes) :=
  if_pos h

/-- R108. -/
theorem State.load_too_long (s : State) {bytes : List Byte} (h : 3584 < bytes.length) : s.load bytes = s :=
  if_neg (Nat.not_le.mpr h)

/-- R109. -/
theorem State.deliverKey_pending {s : State} (h : s.Blocked) (k : BitVec 4) :
    s.deliverKey k = (s.setV s.waitX (zextKey k)).advance.unblock :=
  if_pos h

/-- R109. -/
theorem State.deliverKey_dropped {s : State} (h : ¬ s.Blocked) (k : BitVec 4) : s.deliverKey k = s := if_neg h

/-! ### The word placed where the next step fetches it -/

theorem State.placeWord_pc_le (s : State) (op : Word) : (s.placeWord op).pc.toNat ≤ 0xFFE := by
  by_cases h : s.pc.toNat ≤ lastFetch
  · rw [show (s.placeWord op).pc = s.pc by simp [State.placeWord, h]]
    exact h
  · simp [State.placeWord, h]

theorem State.placeWord_running (s : State) (op : Word) : (s.placeWord op).Running := ⟨rfl, rfl⟩

theorem State.placeWord_stepIsNext (s : State) (op : Word) : (s.placeWord op).StepIsNext := by
  intro e he
  have he : e ∈ (s.host.dropWhile (fun e => !e.isStep)).head? := he
  have := List.head?_dropWhile_not (p := fun e : HostEvent => !e.isStep) (l := s.host)
  rw [Option.mem_def.mp he] at this
  simpa using this

/-- The next step of `s.placeWord op` fetches exactly `op`. -/
theorem State.placeWord_opAtPc (s : State) (op : Word) (hm : s.mem.wf = true) : (s.placeWord op).opAtPc = op := by
  have hp := s.placeWord_pc_le op
  have hmem : (s.placeWord op).mem = s.mem.writeBlock (s.placeWord op).pc.toNat (wordBytes op) := rfl
  have hb : (s.placeWord op).pc.toNat + (wordBytes op).length ≤ Config.memSize := by
    simp only [wordBytes, List.length_cons, List.length_nil, memSize_eq]
    omega
  have h0 := Memory.read_writeBlock_inside hm hb (k := 0) (by simp [wordBytes])
  have h1 := Memory.read_writeBlock_inside hm hb (k := 1) (by simp [wordBytes])
  rw [State.opAtPc, hmem]
  rw [Nat.add_zero] at h0
  rw [h0, h1]
  exact opcodeWord_of_bytes op

end Sys2Proof.Machine
end

