-- ==== Sys2Proof/Laws/PerInstr.lean ====
section
/-! SUPPORT. Per-instruction families. `OpcodePattern`: the word of every instruction has the fixed bits of its row of the
opcode table (30_encoding.md R86). -/

namespace Sys2Proof.Laws

/-- `match` and `mask` of the instruction's row in the table of R86. -/
def opcodeRow : Instr → Word × Word
  | .op00E0 => (0x00E0, 0xFFFF)
  | .op00EE => (0x00EE, 0xFFFF)
  | .op0NNN _ => (0x0000, 0xF000)
  | .op1NNN _ => (0x1000, 0xF000)
  | .op2NNN _ => (0x2000, 0xF000)
  | .op3XNN _ _ => (0x3000, 0xF000)
  | .op4XNN _ _ => (0x4000, 0xF000)
  | .op5XY0 _ _ => (0x5000, 0xF00F)
  | .op6XNN _ _ => (0x6000, 0xF000)
  | .op7XNN _ _ => (0x7000, 0xF000)
  | .op8XY0 _ _ => (0x8000, 0xF00F)
  | .op8XY1 _ _ => (0x8001, 0xF00F)
  | .op8XY2 _ _ => (0x8002, 0xF00F)
  | .op8XY3 _ _ => (0x8003, 0xF00F)
  | .op8XY4 _ _ => (0x8004, 0xF00F)
  | .op8XY5 _ _ => (0x8005, 0xF00F)
  | .op8XY6 _ _ => (0x8006, 0xF00F)
  | .op8XY7 _ _ => (0x8007, 0xF00F)
  | .op8XYE _ _ => (0x800E, 0xF00F)
  | .op9XY0 _ _ => (0x9000, 0xF00F)
  | .opANNN _ => (0xA000, 0xF000)
  | .opBNNN _ => (0xB000, 0xF000)
  | .opCXNN _ _ => (0xC000, 0xF000)
  | .opDXYN _ _ _ => (0xD000, 0xF000)
  | .opEX9E _ => (0xE09E, 0xF0FF)
  | .opEXA1 _ => (0xE0A1, 0xF0FF)
  | .opFX07 _ => (0xF007, 0xF0FF)
  | .opFX0A _ => (0xF00A, 0xF0FF)
  | .opFX15 _ => (0xF015, 0xF0FF)
  | .opFX18 _ => (0xF018, 0xF0FF)
  | .opFX1E _ => (0xF01E, 0xF0FF)
  | .opFX29 _ => (0xF029, 0xF0FF)
  | .opFX33 _ => (0xF033, 0xF0FF)
  | .opFX55 _ => (0xF055, 0xF0FF)
  | .opFX65 _ => (0xF065, 0xF0FF)

/-- R86: under its row's mask, the word of an instruction is its row's match. -/
def OpcodePattern.Statement (i : Instr) : Prop := encode i &&& (opcodeRow i).2 = (opcodeRow i).1

namespace OpcodePattern

theorem op00E0 : Statement (.op00E0) := rfl
theorem op00EE : Statement (.op00EE) := rfl
theorem op0NNN (nnn : BitVec 12) : Statement (.op0NNN nnn) := encodeNNN_masked _ _
theorem op1NNN (nnn : BitVec 12) : Statement (.op1NNN nnn) := encodeNNN_masked _ _
theorem op2NNN (nnn : BitVec 12) : Statement (.op2NNN nnn) := encodeNNN_masked _ _
theorem op3XNN (x : Reg) (nn : Byte) : Statement (.op3XNN x nn) := encodeXNN_masked _ _ _
theorem op4XNN (x : Reg) (nn : Byte) : Statement (.op4XNN x nn) := encodeXNN_masked _ _ _
theorem op5XY0 (x y : Reg) : Statement (.op5XY0 x y) := encodeXYN_masked _ _ _ _
theorem op6XNN (x : Reg) (nn : Byte) : Statement (.op6XNN x nn) := encodeXNN_masked _ _ _
theorem op7XNN (x : Reg) (nn : Byte) : Statement (.op7XNN x nn) := encodeXNN_masked _ _ _
theorem op8XY0 (x y : Reg) : Statement (.op8XY0 x y) := encodeXYN_masked _ _ _ _
theorem op8XY1 (x y : Reg) : Statement (.op8XY1 x y) := encodeXYN_masked _ _ _ _
theorem op8XY2 (x y : Reg) : Statement (.op8XY2 x y) := encodeXYN_masked _ _ _ _
theorem op8XY3 (x y : Reg) : Statement (.op8XY3 x y) := encodeXYN_masked _ _ _ _
theorem op8XY4 (x y : Reg) : Statement (.op8XY4 x y) := encodeXYN_masked _ _ _ _
theorem op8XY5 (x y : Reg) : Statement (.op8XY5 x y) := encodeXYN_masked _ _ _ _
theorem op8XY6 (x y : Reg) : Statement (.op8XY6 x y) := encodeXYN_masked _ _ _ _
theorem op8XY7 (x y : Reg) : Statement (.op8XY7 x y) := encodeXYN_masked _ _ _ _
theorem op8XYE (x y : Reg) : Statement (.op8XYE x y) := encodeXYN_masked _ _ _ _
theorem op9XY0 (x y : Reg) : Statement (.op9XY0 x y) := encodeXYN_masked _ _ _ _
theorem opANNN (nnn : BitVec 12) : Statement (.opANNN nnn) := encodeNNN_masked _ _
theorem opBNNN (nnn : BitVec 12) : Statement (.opBNNN nnn) := encodeNNN_masked _ _
theorem opCXNN (x : Reg) (nn : Byte) : Statement (.opCXNN x nn) := encodeXNN_masked _ _ _
theorem opDXYN (x y : Reg) (n : BitVec 4) : Statement (.opDXYN x y n) := encodeXYN_masked_N _ _ _ _
theorem opEX9E (x : Reg) : Statement (.opEX9E x) := encodeXNN_masked_X _ _ _
theorem opEXA1 (x : Reg) : Statement (.opEXA1 x) := encodeXNN_masked_X _ _ _
theorem opFX07 (x : Reg) : Statement (.opFX07 x) := encodeXNN_masked_X _ _ _
theorem opFX0A (x : Reg) : Statement (.opFX0A x) := encodeXNN_masked_X _ _ _
theorem opFX15 (x : Reg) : Statement (.opFX15 x) := encodeXNN_masked_X _ _ _
theorem opFX18 (x : Reg) : Statement (.opFX18 x) := encodeXNN_masked_X _ _ _
theorem opFX1E (x : Reg) : Statement (.opFX1E x) := encodeXNN_masked_X _ _ _
theorem opFX29 (x : Reg) : Statement (.opFX29 x) := encodeXNN_masked_X _ _ _
theorem opFX33 (x : Reg) : Statement (.opFX33 x) := encodeXNN_masked_X _ _ _
theorem opFX55 (x : Reg) : Statement (.opFX55 x) := encodeXNN_masked_X _ _ _
theorem opFX65 (x : Reg) : Statement (.opFX65 x) := encodeXNN_masked_X _ _ _

end OpcodePattern

end Sys2Proof.Laws
end

