-- ==== Sys2Proof/Tests/Slice0.lean ====
section
/-! SUPPORT. The model's own tests: ill-formed terms, words written out from the table of 30_encoding.md R86, vectors of
95_test_vectors.md (the vector's number is in the comment), and a witness for the hypotheses of every statement. -/

namespace Sys2Proof.Tests

open Sys2Proof Sys2Proof.Machine

/-! ### WellFormed: one ill-formed term a check -/

theorem test_wf_refuses_0NNN_for_00E0 : (Instr.op0NNN 0x0E0).wf = false := by decide
theorem test_wf_refuses_0NNN_for_00EE : (Instr.op0NNN 0x0EE).wf = false := by decide
theorem test_wf_admits_0NNN_beside_them : (Instr.op0NNN 0x0E1).wf = true ∧ (Instr.op0NNN 0x0EF).wf = true := by decide

/-! ### Decode: every constructor's word, nibble by nibble from the formats of R82 -/

theorem test_decode_flow :
    decodeOp 0x00EE = some .op00EE ∧ decodeOp 0x0123 = some (.op0NNN 0x123) ∧ decodeOp 0x1ABC = some (.op1NNN 0xABC) ∧
    decodeOp 0x2ABC = some (.op2NNN 0xABC) ∧ decodeOp 0xB300 = some (.opBNNN 0x300) := by decide

theorem test_decode_skip :
    decodeOp 0x3A42 = some (.op3XNN 10 0x42) ∧ decodeOp 0x4A42 = some (.op4XNN 10 0x42) ∧
    decodeOp 0x5120 = some (.op5XY0 1 2) ∧ decodeOp 0x9120 = some (.op9XY0 1 2) ∧
    decodeOp 0xE39E = some (.opEX9E 3) ∧ decodeOp 0xE3A1 = some (.opEXA1 3) := by decide

theorem test_decode_alu :
    decodeOp 0x6AFF = some (.op6XNN 10 0xFF) ∧ decodeOp 0x7A0A = some (.op7XNN 10 0x0A) ∧
    decodeOp 0x8120 = some (.op8XY0 1 2) ∧ decodeOp 0x8121 = some (.op8XY1 1 2) ∧
    decodeOp 0x8122 = some (.op8XY2 1 2) ∧ decodeOp 0x8123 = some (.op8XY3 1 2) ∧
    decodeOp 0x8124 = some (.op8XY4 1 2) ∧ decodeOp 0x8125 = some (.op8XY5 1 2) ∧
    decodeOp 0x8126 = some (.op8XY6 1 2) ∧ decodeOp 0x8127 = some (.op8XY7 1 2) ∧
    decodeOp 0x812E = some (.op8XYE 1 2) ∧ decodeOp 0xC30F = some (.opCXNN 3 0x0F) := by decide

theorem test_decode_index_memory :
    decodeOp 0xA123 = some (.opANNN 0x123) ∧ decodeOp 0xF31E = some (.opFX1E 3) ∧ decodeOp 0xF329 = some (.opFX29 3) ∧
    decodeOp 0xF333 = some (.opFX33 3) ∧ decodeOp 0xF355 = some (.opFX55 3) ∧ decodeOp 0xF365 = some (.opFX65 3) := by
  decide

theorem test_decode_display : decodeOp 0x00E0 = some .op00E0 ∧ decodeOp 0xD125 = some (.opDXYN 1 2 5) := by decide

theorem test_decode_timer_key :
    decodeOp 0xF307 = some (.opFX07 3) ∧ decodeOp 0xF30A = some (.opFX0A 3) ∧ decodeOp 0xF315 = some (.opFX15 3) ∧
    decodeOp 0xF318 = some (.opFX18 3) := by decide

/-- E5 to E13. -/
theorem test_decode_refuses :
    decodeOp 0xFFFF = none ∧ decodeOp 0x5121 = none ∧ decodeOp 0x912F = none ∧ decodeOp 0x8128 = none ∧
    decodeOp 0x812F = none ∧ decodeOp 0xE39F = none ∧ decodeOp 0xF308 = none ∧ decodeOp 0xF300 = none ∧
    decodeOp 0xF375 = none := by decide

theorem test_decode_bytes :
    decode [0xA1, 0x23, 0x77] = .ok (.opANNN 0x123, [0x77]) ∧ decode [0xA1] = .error (.truncated 1) ∧
    decode [] = .error (.truncated 0) := by decide

theorem test_encode_words :
    encode (.op8XY4 3 4) = 0x8344 ∧ encode (.opDXYN 0 1 5) = 0xD015 ∧ encode (.opFX0A 10) = 0xFA0A ∧
    encode (.op2NNN 0xABC) = 0x2ABC ∧ encode (.op3XNN 10 0x42) = 0x3A42 := by decide

theorem test_table_word : decodeTableWord 16 0x8344 = some (.op8XY4 3 4) ∧ decodeTableWord 16 0x5121 = none := by decide

/-! ### Vectors: one step from the start state of 95_test_vectors.md -/

/-- The start state of the vectors: reset, with the word under test at 0x200. -/
def start (op : Nat) : State := State.reset.withFetchWord 16 op

/-- What one step leaves, seen through `f`. -/
def seen {α : Type} (f : State → α) (s : State) : Option α :=
  match step s with
  | .next t => some (f t)
  | .fault _ => none
  | .refused _ => none

/-- The host schedules the step, with these inputs. -/
def givenInputs (keys : Word) (rnd : Byte) (s : State) : State := s.setHost [.step keys rnd]

/-- E4: no alignment. -/
theorem test_E4_odd_pc : seen (fun t => (t.getV 11, t.pc))
    ((State.reset.setPc 0x201).withFetchWord 16 0x6B07) = some (0x07, 0x203) := by decide
/-- E5. -/
theorem test_E5_illegal_word_halts : seen (fun t => (t.fault, t.pc)) (start 0xFFFF) =
    some (some (.invalidOpcode 0xFFFF), 0x200) := by decide
/-- E15. -/
theorem test_E15_00E1_is_a_no_op : seen (fun t => (t.pc, t.fault)) (start 0x00E1) = some (0x202, none) := by decide
/-- E16, E18. -/
theorem test_E16_E18_fetch_beyond_memory :
    seen (fun t => (t.fault, t.pc)) (State.reset.setPc 0xFFF) = some (some (.outOfBounds 0x1000), 0xFFF) ∧
    seen (fun t => (t.fault, t.pc)) (State.reset.setPc 0x10FE) = some (some (.outOfBounds 0x10FE), 0x10FE) := by decide
/-- E19. -/
theorem test_E19_halted : seen (fun t => (t.fault, t.pc, t.getV 10)) ((start 0x6AFF).raise (.invalidOpcode 0xFFFF)) =
    some (some (.invalidOpcode 0xFFFF), 0x200, 0) := by decide
/-- E20. -/
theorem test_E20_blocked : seen (fun t => (t.wait, t.pc, t.getV 10)) ((start 0x6AFF).block 3) =
    some (true, 0x200, 0) := by decide

/-- F1. -/
theorem test_F1_0NNN : seen (fun t => (t.pc, t.i, t.sp)) (start 0x0123) = some (0x202, 0, 0) := by decide
/-- F2. -/
theorem test_F2_return : seen (fun t => (t.sp, t.pc)) ((start 0x00EE).push 0x204) = some (0, 0x206) := by decide
/-- F3. -/
theorem test_F3_underflow : seen (fun t => (t.fault, t.pc)) (start 0x00EE) = some (some .stackUnderflow, 0x200) := by decide
/-- F4. -/
theorem test_F4_jump : seen (fun t => t.pc) (start 0x1ABC) = some 0xABC := by decide
/-- F6. -/
theorem test_F6_call : seen (fun t => (t.sp, t.stackEntry 0, t.pc)) ((State.reset.setPc 0x2F0).withFetchWord 16 0x2ABC) =
    some (1, some 0x2F0, 0xABC) := by decide
/-- F7. -/
theorem test_F7_overflow : seen (fun t => (t.fault, t.pc, t.sp)) ((start 0x2300).setStack (List.replicate 16 0x200)) =
    some (some .stackOverflow, 0x200, 16) := by decide
/-- F9. -/
theorem test_F9_jump_offset_not_wrapped : seen (fun t => t.pc) ((start 0xBFFF).setV 0 0xFF) = some 0x10FE := by decide
/-- F12. -/
theorem test_F12_jump_offset_is_V0 : seen (fun t => t.pc) (((start 0xB300).setV 3 9).setV 0 4) = some 0x304 := by decide

/-- S1. -/
theorem test_S1_taken : seen (fun t => t.pc) ((start 0x3A42).setV 10 0x42) = some 0x204 := by decide
/-- S2. -/
theorem test_S2_not_taken : seen (fun t => t.pc) ((start 0x3A42).setV 10 0x43) = some 0x202 := by decide
/-- S3. -/
theorem test_S3_complement : seen (fun t => t.pc) ((start 0x4A42).setV 10 0x42) = some 0x202 := by decide
/-- S4. -/
theorem test_S4_complement : seen (fun t => t.pc) ((start 0x4A42).setV 10 0x43) = some 0x204 := by decide
/-- S6. -/
theorem test_S6_unequal : seen (fun t => t.pc) (((start 0x5120).setV 1 7).setV 2 8) = some 0x202 := by decide
/-- S7. -/
theorem test_S7_same_register : seen (fun t => t.pc) (start 0x5330) = some 0x204 := by decide
/-- S8. -/
theorem test_S8_unequal : seen (fun t => t.pc) (((start 0x9120).setV 1 7).setV 2 8) = some 0x204 := by decide
/-- S9. -/
theorem test_S9_equal : seen (fun t => t.pc) (((start 0x9120).setV 1 7).setV 2 7) = some 0x202 := by decide
/-- S11. -/
theorem test_S11_every_key_but_A : seen (fun t => t.pc) (givenInputs 0xFBFF 0 ((start 0xE39E).setV 3 0x0A)) =
    some 0x202 := by decide
/-- S14. -/
theorem test_S14_low_four_bits : seen (fun t => (t.pc, t.getV 3)) (givenInputs 0x0400 0 ((start 0xE39E).setV 3 0x1A)) =
    some (0x204, 0x1A) := by decide
/-- S12. -/
theorem test_S12_key_down : seen (fun t => t.pc) (givenInputs 0x0400 0 ((start 0xE3A1).setV 3 0x0A)) = some 0x202 := by decide
/-- S13. -/
theorem test_S13_no_key : seen (fun t => t.pc) (givenInputs 0x0000 0 ((start 0xE3A1).setV 3 0x0A)) = some 0x204 := by decide

/-- A1. -/
theorem test_A1_load_immediate : seen (fun t => (t.getV 10, t.pc)) (start 0x6AFF) = some (0xFF, 0x202) := by decide
/-- A2. -/
theorem test_A2_add_wraps : seen (fun t => (t.getV 10, t.getV 15)) ((start 0x7A0A).setV 10 0xFA) = some (0x04, 0) := by decide
/-- A3. -/
theorem test_A3_add_to_VF : seen (fun t => t.getV 15) ((start 0x7F01).setV 15 0xFF) = some 0 := by decide
/-- A4. -/
theorem test_A4_copy : seen (fun t => (t.getV 1, t.getV 2)) (((start 0x8120).setV 1 0x01).setV 2 0x99) =
    some (0x99, 0x99) := by decide
/-- A29. -/
theorem test_A29_copy_to_VF : seen (fun t => t.getV 15) (((start 0x8F10).setV 1 0x09).setV 15 0x01) = some 0x09 := by decide
/-- A5. -/
theorem test_A5_or : seen (fun t => (t.getV 1, t.getV 15))
    ((((start 0x8121).setV 1 0xF0).setV 2 0x0F).setV 15 0x55) = some (0xFF, 0x55) := by decide
/-- A6. -/
theorem test_A6_and : seen (fun t => (t.getV 1, t.getV 15))
    ((((start 0x8122).setV 1 0xF3).setV 2 0x3F).setV 15 0x55) = some (0x33, 0x55) := by decide
/-- A7. -/
theorem test_A7_xor : seen (fun t => (t.getV 1, t.getV 15))
    ((((start 0x8123).setV 1 0xFF).setV 2 0x0F).setV 15 0x55) = some (0xF0, 0x55) := by decide
/-- A9. -/
theorem test_A9_sum_255 : seen (fun t => (t.getV 1, t.getV 15))
    ((((start 0x8124).setV 1 0x80).setV 2 0x7F).setV 15 0x01) = some (0xFF, 0x00) := by decide
/-- A20. -/
theorem test_A20_flag_wins : seen (fun t => t.getV 15) (((start 0x8F14).setV 15 0xFF).setV 1 0x02) = some 0x01 := by decide
/-- A11. -/
theorem test_A11_borrow : seen (fun t => (t.getV 1, t.getV 15)) (((start 0x8125).setV 1 0x10).setV 2 0x20) =
    some (0xF0, 0x00) := by decide
/-- A13. -/
theorem test_A13_equal_no_borrow : seen (fun t => (t.getV 1, t.getV 15)) (((start 0x8125).setV 1 0x33).setV 2 0x33) =
    some (0x00, 0x01) := by decide
/-- A14. -/
theorem test_A14_shift_takes_VY : seen (fun t => (t.getV 1, t.getV 15)) (((start 0x8126).setV 1 0xFF).setV 2 0x05) =
    some (0x02, 0x01) := by decide
/-- A26. -/
theorem test_A26_old_VF_shifted : seen (fun t => (t.getV 1, t.getV 15)) ((start 0x81F6).setV 15 0x07) =
    some (0x03, 0x01) := by decide
/-- A16. -/
theorem test_A16_subn : seen (fun t => (t.getV 1, t.getV 15)) (((start 0x8127).setV 1 0x10).setV 2 0x20) =
    some (0x10, 0x01) := by decide
/-- A17. -/
theorem test_A17_subn_borrow : seen (fun t => (t.getV 1, t.getV 15)) (((start 0x8127).setV 1 0x20).setV 2 0x10) =
    some (0xF0, 0x00) := by decide
/-- A18. -/
theorem test_A18_shift_left : seen (fun t => (t.getV 1, t.getV 15)) ((start 0x812E).setV 2 0x81) = some (0x02, 0x01) := by
  decide
/-- A25. -/
theorem test_A25_shift_left_VF : seen (fun t => t.getV 15) ((start 0x8FFE).setV 15 0x80) = some 0x01 := by decide
/-- A30. -/
theorem test_A30_random_masked : seen (fun t => t.getV 3) (givenInputs 0 0xA7 (start 0xC30F)) = some 0x07 := by decide
/-- A31. -/
theorem test_A31_random_masked_away : seen (fun t => t.getV 3) (givenInputs 0 0xFF ((start 0xC300).setV 3 0x77)) =
    some 0x00 := by decide

/-- M2. -/
theorem test_M2_index_load : seen (fun t => t.i) ((start 0xA000).setI 0x1234) = some 0 := by decide
/-- M3. -/
theorem test_M3_index_beyond_memory : seen (fun t => (t.i, t.getV 15)) (((start 0xF31E).setI 0xFF0).setV 3 0x20) =
    some (0x1010, 0) := by decide
/-- M4. -/
theorem test_M4_index_wraps : seen (fun t => t.i) (((start 0xF31E).setI 0xFFFF).setV 3 0x02) = some 0x0001 := by decide
/-- M5, M6, M28, with `FX1E_VF` true. -/
theorem test_M5_M6_M28_flag_convention :
    (addToIndex true 3 ((State.reset.setI 0xFF0).setV 3 0x20)).getV 15 = 1 ∧
    (addToIndex true 3 (((State.reset.setI 0x100).setV 3 0x20).setV 15 7)).getV 15 = 0 ∧
    (addToIndex true 15 ((State.reset.setI 0xFFF).setV 15 0x01)).i = 0x1000 := by decide
/-- M8. -/
theorem test_M8_glyph : seen (fun t => t.i) ((start 0xF329).setV 3 0xFF) = some 0x04FB := by decide
/-- M10. -/
theorem test_M10_bcd : seen (fun t => t.mem.readBlock 0x300 4) (((start 0xF333).setI 0x300).setV 3 0xFE) =
    some [2, 5, 4, 0] := by decide
/-- M13. -/
theorem test_M13_bcd_beyond_memory : seen (fun t => (t.fault, t.mem.readBlock 0xFFE 2, t.pc))
    (((start 0xF333).setI 0xFFE).setV 3 0x7B) = some (some (.outOfBounds 0x1000), [0, 0], 0x200) := by decide
/-- M15. -/
theorem test_M15_store : seen (fun t => (t.mem.readBlock 0x400 5, t.i))
    ((((((start 0xF355).setI 0x400).setV 0 0x11).setV 1 0x22).setV 2 0x33).setV 3 0x44 |>.setV 4 0x55) =
    some ([0x11, 0x22, 0x33, 0x44, 0], 0x400) := by decide
/-- M17. -/
theorem test_M17_store_beyond_memory : seen (fun t => (t.fault, t.mem.read 0xFFF)) (((start 0xF155).setI 0xFFF).setV 0 0x99) =
    some (some (.outOfBounds 0x1000), 0) := by decide
/-- M20. -/
theorem test_M20_load : seen (fun t => (t.getV 0, t.getV 3, t.getV 4, t.i)) ((((start 0xF365).setI 0x400).setV 4 0x77).setMem
    ((start 0xF365).mem.writeBlock 0x400 [1, 2, 3, 4, 5])) = some (1, 4, 0x77, 0x400) := by decide
/-- M22. -/
theorem test_M22_load_beyond_memory : seen (fun t => (t.fault, t.getV 0)) (((start 0xF165).setI 0xFFF).setV 0 0x05) =
    some (some (.outOfBounds 0x1000), 0x05) := by decide
/-- M23, M24, with `I_INCREMENT` true. -/
theorem test_M23_M24_index_convention :
    (storeRegisters true 3 (State.reset.setI 0x400)).i = 0x404 ∧ (loadRegisters true 3 (State.reset.setI 0x400)).i = 0x404 := by
  decide
/-- M25: the store overwrites the instruction being executed. -/
theorem test_M25_self_modifying : seen (fun t => (t.mem.readBlock 0x200 2, t.pc))
    ((((start 0xF155).setI 0x200).setV 0 0xAB).setV 1 0xCD) = some ([0xAB, 0xCD], 0x202) := by decide

/-- D9: three pixels on, then the frame cleared. -/
theorem test_D9_clear : seen (fun t => (t.pixel 0 0, t.pixel 63 31, t.pixel 10 10, t.getV 15)) (((start 0x00E0).setV 15 9).setDisp
    (Frame.toggle (Frame.toggle (Frame.toggle Frame.clear 0 0) 63 31) 10 10)) = some (false, false, false, 9) := by decide
/-- D3, R169: both coordinates reduced, every pixel wrapped. -/
theorem test_D3_wrap : seen (fun t => ([62, 63, 0, 5].map (t.pixel · 31), [62, 5, 0].map (t.pixel · 0), t.getV 15))
    (((((start 0xD122).setV 1 126).setV 2 63).setI 0x300).setMem ((start 0xD122).mem.writeBlock 0x300 [0xFF, 0x81])) =
    some ([true, true, true, true], [true, true, false], 0) := by decide
/-- D8b. -/
theorem test_D8b_collision_VF : seen (fun t => (t.pixel 3 3, t.getV 15)) (((((start 0xDFF1).setV 15 3).setI 0x300).setMem
    ((start 0xDFF1).mem.write 0x300 0x80)).setDisp (Frame.toggle Frame.clear 3 3)) = some (false, 1) := by decide

/-- K1. -/
theorem test_K1_read_timer : seen (fun t => (t.getV 3, t.dt)) ((start 0xF307).setDt 0x2A) = some (0x2A, 0x2A) := by decide
/-- K2. -/
theorem test_K2_set_timer : seen (fun t => t.dt) ((start 0xF315).setV 3 0xFF) = some 0xFF := by decide
/-- K3. -/
theorem test_K3_set_sound : seen (fun t => (t.st, t.dt)) ((start 0xF318).setV 3 0x01) = some (0x01, 0) := by decide
/-- K5, first step: held keys do not satisfy FX0A. -/
theorem test_K5_key_wait : seen (fun t => (t.wait, t.waitX, t.pc, t.getV 3)) (givenInputs 0xFFFF 0 ((start 0xF30A).setV 3 0x99)) =
    some (true, 3, 0x200, 0x99) := by decide
/-- K5, the delivery. -/
theorem test_K5_delivery : seen (fun t => (t.wait, t.pc, t.getV 3)) (((start 0xF30A).block 3).setHost [.deliverKey 0xC]) =
    some (false, 0x202, 0x0C) := by decide
/-- K6. -/
theorem test_K6_tick : seen (fun t => (t.dt, t.st)) (((State.reset.setDt 2).setSt 0).setHost [.tickTimers]) =
    some (1, 0) := by decide
/-- K10: a halted core takes no key. -/
theorem test_K10_halted : seen (fun t => (t.pc, t.getV 0)) ((State.reset.raise .stackUnderflow).setHost [.deliverKey 3]) =
    some (0x200, 0) := by decide
/-- Z1. -/
theorem test_Z1_reset : seen (fun t => (t.mem.read 0x200, t.getV 3, t.fault, t.host))
    (((start 0x12FF).setV 3 7 |>.raise .stackOverflow).setHost [.reset, .tickTimers]) =
    some (0, 0, none, [.tickTimers]) := by decide
/-- Z4. -/
theorem test_Z4_load : seen (fun t => (t.mem.readBlock 0x200 2, t.pc, t.sp))
    (((State.reset.setPc 0x300).push 0x200).setHost [.load [0x00, 0xEE]]) = some ([0x00, 0xEE], 0x300, 1) := by decide

/-- R193: the numbers of the failures. -/
theorem test_R193_fault_codes : [none, some (.outOfBounds 0x1000), some (.invalidOpcode 0xFFFF), some .stackOverflow,
    some .stackUnderflow].map faultCode = [0, 1, 2, 3, 4] := by decide

/-- R6: the parameters at the values its table gives them. -/
theorem test_R6_parameters : Config.stackDepth = 16 ∧ Config.iIncrement = false ∧ Config.fx1eVf = false ∧
    Config.font.length = 80 ∧ Config.memInit = 0x00 ∧ Config.timerWidth = 8 := by decide

/-! ### Memory -/

/-- The reset content of 20_memory.md R56, and that rewriting it removes the entry. -/
theorem test_memory_canonical :
    Memory.read [] 0x04B = 0xF0 ∧ Memory.read [] 0x050 = 0 ∧ (Memory.write [] 0x300 7).write 0x300 0 = [] ∧
    (Memory.write [] 0x300 7).write 0x200 1 = [(0x200, 1), (0x300, 7)] := by decide

/-! ### Witnesses: a concrete state and operands that meet the hypotheses of each statement, at the ends of their ranges -/

/-- `Obligations.DecodeOfEncodeIsTheInstruction`. -/
theorem witness_well_formed : (Instr.op0NNN 0x0E1).wf = true ∧ (Instr.op0NNN 0xFFF).wf = true ∧ (Instr.opFX65 15).wf = true := by
  decide

/-- `Obligations.EncodeOfDecodeIsTheWord`. -/
theorem witness_word_decodes : decodeOp 0xDFFF = some (.opDXYN 15 15 15) := by decide

/-- A running core at the last address a fetch can start at, with the word 0xF01E (FX1E) there. -/
def atTop : State := (State.reset.setPc 0xFFE).setMem [(0xFFE, 0xF0), (0xFFF, 0x1E)]

/-- `Obligations.StepExecutesTheDecodedInstruction`, both clauses. -/
theorem witness_step_executes :
    (atTop.Running ∧ atTop.pc.toNat ≤ 0xFFE ∧ decodeOp atTop.opAtPc = some (.opFX1E 0) ∧ atTop.host = []) ∧
    ∃ s : State, s.Running ∧ s.pc.toNat ≤ 0xFFE ∧ decodeOp s.opAtPc = some (.opFX1E 0) ∧
      s.host = [.step 0xFFFF 0xFF, .tickTimers] ∧ ∃ t, exec (.opFX1E 0) s = .next t :=
  ⟨⟨⟨rfl, rfl⟩, by decide, by decide, rfl⟩,
    atTop.setHost [.step 0xFFFF 0xFF, .tickTimers], ⟨rfl, rfl⟩, by decide, by decide, rfl, _, rfl⟩

/-- `Obligations.FetchOutsideMemoryHaltsWithTheAddress`, each side of its `if`. -/
theorem witness_fetch_outside :
    (∃ s : State, s.Running ∧ s.StepIsNext ∧ s.pc.toNat = 0xFFF) ∧
    ∃ s : State, s.Running ∧ s.StepIsNext ∧ s.pc.toNat = 0x1000 :=
  ⟨⟨State.reset.setPc 0xFFF, ⟨rfl, rfl⟩, by intro e he; simp [State.reset] at he, rfl⟩,
    ⟨(State.reset.setPc 0x1000).setHost [.step 0 0], ⟨rfl, rfl⟩, by intro e he; simp at he; subst he; rfl, rfl⟩⟩

/-- `Obligations.IllegalWordHaltsWithTheWord`. -/
theorem witness_illegal_word : ∃ s : State, s.Running ∧ s.StepIsNext ∧ s.pc.toNat = 0xFFE ∧ decodeOp s.opAtPc = none :=
  ⟨atTop.setMem [(0xFFE, 0xFF), (0xFFF, 0xFF)], ⟨rfl, rfl⟩, by intro e he; simp [atTop, State.reset] at he, rfl, by decide⟩

/-- `Obligations.StepWhileBlockedOrHaltedChangesNothing`, both clauses. -/
theorem witness_blocked_or_halted :
    (∃ s : State, s.StepIsNext ∧ s.Blocked) ∧ ∃ s : State, s.StepIsNext ∧ s.Halted .stackUnderflow :=
  ⟨⟨(State.reset.block 3).setHost [.step 0 0], by intro e he; simp at he; subst he; rfl, rfl, rfl⟩,
    ⟨State.reset.raise .stackUnderflow, by intro e he; simp [State.reset] at he, rfl⟩⟩

/-- `Obligations.OnlyResetClearsAFailure`, for a `load` and for a `tick_timers`. -/
theorem witness_halted_goes_on :
    (∃ s t : State, s.Halted .stackUnderflow ∧ s.host.head? ≠ some .reset ∧ step s = .next t ∧
      ∀ bytes, s.host.head? ≠ some (.load bytes)) ∧
    ∃ s t : State, s.Halted .stackUnderflow ∧ s.host.head? ≠ some .reset ∧ step s = .next t ∧
      s.host.head? ≠ some .tickTimers :=
  ⟨⟨(State.reset.raise .stackUnderflow).setHost [.tickTimers], _, rfl, by simp, rfl, by simp⟩,
    ⟨(State.reset.raise .stackUnderflow).setHost [.load [0x12]], _, rfl, by simp, rfl, by simp⟩⟩

/-- `Obligations.AFailingStepChangesOnlyTheFault`: a draw that fails. -/
theorem witness_failing_step : ∃ s t : State, s.fault = none ∧ step s = .next t ∧ t.fault = some (.outOfBounds 0x1000) :=
  ⟨(start 0xD001).setI 0x1000, _, rfl, rfl, by decide⟩

/-- `Obligations.OnlyListedInstructionsWriteEachPart`. -/
theorem witness_exec_next : ∃ t, exec (.opFX55 15) State.reset = .next t := ⟨_, rfl⟩

/-- `Obligations.RegistersChangeOnlyAsDestinationOrFlag`, its three clauses. -/
theorem witness_register_clauses :
    (∃ t, exec (.opFX65 3) State.reset = .next t ∧ writesReg (.opFX65 3) 4 = false) ∧
    (∃ t, exec (.op8XY4 15 15) State.reset = .next t) ∧
    ∃ t, exec (.opDXYN 15 0 15) State.reset = .next t ∧ State.reset.fault = none ∧ t.fault = none :=
  ⟨⟨_, rfl, by decide⟩, ⟨_, rfl⟩, ⟨_, rfl, rfl, by decide⟩⟩

/-- `Obligations.EveryStepKeepsTheMachineInvariant`: a core in the last subroutine level, at the top of memory. -/
theorem witness_invariant : ∃ s t : State, s.Inv ∧ step s = .next t :=
  ⟨atTop.setStack (List.replicate 16 0xFFE), _,
    ⟨by decide, by decide, by intro a ha; rw [List.eq_of_mem_replicate ha]; decide, by decide, (fun h => by cases h), trivial⟩,
    rfl⟩

/-- `Obligations.InputsReachOnlyTheirInstructions`, its three clauses. -/
theorem witness_inputs :
    (∃ t, exec (.opFX0A 15) State.reset = .next t) ∧
    (∃ t, exec (.opEX9E 15) { State.reset with host := .step 0xFFFF 0 :: [] } = .next t) ∧
    ∃ t, exec (.opCXNN 15 0xFF) { State.reset with host := .step 0 0xFF :: [] } = .next t :=
  ⟨⟨_, rfl⟩, ⟨_, rfl⟩, ⟨_, rfl⟩⟩

/-- `Obligations.LoadPlacesTheImageAndNothingElse`, at both ends of the length. -/
theorem witness_load : (atTop.mem.wf = true ∧ ([] : List Byte).length ≤ 3584) ∧
    ∃ bytes : List Byte, bytes.length = 3584 :=
  ⟨⟨by decide, by decide⟩, List.replicate 3584 0, List.length_replicate⟩

/-- `Obligations.LoadOfTooLongAnImageChangesNothing`. -/
theorem witness_load_too_long : ∃ bytes : List Byte, bytes.length = 3585 := ⟨List.replicate 3585 0, List.length_replicate⟩

/-- `Obligations.DeliverKeyCompletesOnlyAPendingWait`, both clauses. -/
theorem witness_deliver : (State.reset.block 15).Blocked ∧ ¬ State.reset.Blocked ∧
    ¬ ((State.reset.block 15).raise .stackOverflow).Blocked :=
  ⟨⟨rfl, rfl⟩, (fun h => by cases h.2), (fun h => by cases h.1)⟩

/-- `Obligations.ScheduledEventsHappenInOrder`. -/
theorem witness_schedule : (State.reset.setHost [.load [], .step 0 0]).host = .load [] :: [.step 0 0] := rfl

/-- `Obligations.ReturnPopsTheCallAddressAndGoesOnAfterIt`, both clauses. -/
theorem witness_return : (State.reset.push 0x204).sp = 1 ∧ State.reset.sp = 0 := ⟨rfl, rfl⟩

/-- `Obligations.CallPushesItsOwnAddress`, both clauses, and `Obligations.ReturnUndoesCall`. -/
theorem witness_call : (State.reset.setStack (List.replicate 15 0x204)).sp = 15 ∧
    (State.reset.setStack (List.replicate 16 0x204)).sp = 16 := ⟨rfl, rfl⟩

/-- `Obligations.KeySkipsTestTheSampledLevel` and `Obligations.RandomIsTheSampledByteMasked`, a scheduled step. -/
theorem witness_scheduled_inputs : (givenInputs 0x8000 0xFF State.reset).host = .step 0x8000 0xFF :: [] := rfl

/-- `Obligations.AddSetsTheSumAndTheCarry` and the statements on subtraction and shifts: a destination other than `VF`. -/
theorem witness_destination : (14 : Reg) ≠ 15 := by decide

/-- `Obligations.BcdStoresTheThreeDigits`, at the highest `I`. -/
theorem witness_bcd : ∃ s : State, s.mem.wf = true ∧ s.i.toNat + 2 = 0xFFF := ⟨atTop.setI 0xFFD, by decide, rfl⟩

/-- `Obligations.StoreRegistersCopiesV0ToVX`, `Obligations.LoadRegistersCopiesIntoV0ToVX` and
`Obligations.TheOtherConventionsAreAsStated`, at the highest `I` for all sixteen registers; with `r ≤ x` and `x < r`. -/
theorem witness_block : ∃ s : State, s.mem.wf = true ∧ s.i.toNat + (15 : Reg).val = 0xFFF ∧ (15 : Reg) ≤ 15 ∧ (14 : Reg) < 15 :=
  ⟨atTop.setI 0xFF0, by decide, rfl, by decide, by decide⟩

/-- `Obligations.AccessBeyondMemoryHaltsWithTheLowestAddress`, its three clauses at the lowest failing `I`. -/
theorem witness_beyond_memory :
    (∃ s : State, 0xFFF < s.i.toNat + 2 ∧ s.i.toNat = 0xFFE) ∧
    (∃ s : State, 0xFFF < s.i.toNat + (15 : Reg).val ∧ s.i.toNat = 0xFF1) ∧
    ∃ s : State, 0 < (1 : BitVec 4).toNat ∧ 0xFFF < s.i.toNat + (1 : BitVec 4).toNat - 1 ∧ s.i.toNat = 0x1000 :=
  ⟨⟨State.reset.setI 0xFFE, by decide, rfl⟩, ⟨State.reset.setI 0xFF1, by decide, rfl⟩,
    ⟨State.reset.setI 0x1000, by decide, by decide, rfl⟩⟩

/-- `Obligations.AStoredInstructionIsTheOneFetched`: a jump written to the top of memory. -/
theorem witness_stored_instruction : ∃ s : State, s.mem.wf = true ∧ 1 ≤ (1 : Reg).val ∧ s.i.toNat + (1 : Reg).val ≤ 0xFFF ∧
    s.Running ∧ s.host = [] ∧ decodeOp (opcodeWord (s.getV 0) (s.getV 1)) = some (.op1NNN 0x208) :=
  ⟨((atTop.setI 0xFFE).setV 0 0x12).setV 1 0x08, by decide, by decide, by decide, ⟨rfl, rfl⟩, rfl, by decide⟩

/-- `Obligations.DrawXorsTheSpriteAndReportsCollision`, both alternatives at their ends. -/
theorem witness_draw :
    (∃ (n : BitVec 4) (s : State), n.toNat = 0 ∧ s.i.toNat = 0xFFFF) ∧
    ∃ (n : BitVec 4) (s : State), n.toNat = 15 ∧ s.i.toNat + n.toNat - 1 = 0xFFF :=
  ⟨⟨0, State.reset.setI 0xFFFF, rfl, rfl⟩, ⟨15, State.reset.setI 0xFF1, rfl, rfl⟩⟩

/-- `Obligations.DrawingTwiceRestoresTheFrame`. -/
theorem witness_draw_twice : ∃ (s t : State), (0 : Reg) ≠ 15 ∧ (14 : Reg) ≠ 15 ∧ s.i.toNat + (5 : BitVec 4).toNat - 1 ≤ 0xFFF ∧
    exec (.opDXYN 0 14 5) s = .next t :=
  ⟨State.reset.setI 0xFFB, _, by decide, by decide, by decide, rfl⟩

/-- `Obligations.KeyWaitEndsWithTheDeliveredKey`. -/
theorem witness_key_wait : ∃ t, State.reset.Running ∧ State.reset.host = [] ∧ exec (.opFX0A 15) State.reset = .next t :=
  ⟨_, ⟨rfl, rfl⟩, rfl, rfl⟩

end Sys2Proof.Tests
end

namespace Sys2Proof.Machine

/-! ### The event `load` -/

@[simp] theorem hostEvent_load (s : State) (bytes : List Byte) : hostEvent (.load bytes) s = .next (s.load bytes) := rfl

/-- R108, R196. -/
theorem loadReply_too_long {bytes : List Byte} (h : 3584 < bytes.length) : loadReply bytes = .loadOutOfBounds :=
  if_neg (Nat.not_le.mpr h)

/-- Settles O19 (R108): an image past the 3584 bytes fails the length check that decides both what `load` stores and what it
returns. -/
theorem loadOfTooLongAnImageChangesNothing : Obligations.LoadOfTooLongAnImageChangesNothing := by
  intro s bytes hlen
  constructor
  · rw [hostEvent_load, State.load_too_long s hlen]
  · exact loadReply_too_long hlen

end Sys2Proof.Machine

namespace Sys2Proof.Machine

/-! ### Frames of the control operations -/

/-- `PC` is no part of a frame. -/
theorem KeepsAllBut.setPc {parts : List Part} {s t : State} (h : KeepsAllBut parts s t) (w : Word) :
    KeepsAllBut parts s (t.setPc w) := by
  intro p hp
  have hkeep := h p hp
  cases p <;> simpa [Keeps] using hkeep

/-- The epilogue writes `PC` alone (R104). -/
theorem KeepsAllBut.advance {parts : List Part} {s t : State} (h : KeepsAllBut parts s t) :
    KeepsAllBut parts s t.advance :=
  h.setPc (t.pc + 2)

/-- Where the stack is outside the frame, it does not matter what was pushed before. -/
theorem KeepsAllBut.of_push {parts : List Part} (hstack : Part.stack ∈ parts) {s t : State}
    (h : KeepsAllBut parts s t) (a : Word) : KeepsAllBut parts (s.push a) t := by
  intro p hp
  have hkeep := h p hp
  cases p with
  | stack => exact absurd hstack hp
  | _ => simpa [Keeps] using hkeep

/-! ### The call stack -/

@[simp] theorem State.sp_push (s : State) (a : Word) : (s.push a).sp = s.sp + 1 := rfl

/-- A state whose stack is not empty is some state with its newest entry pushed (R25). -/
theorem State.exists_push_of_sp_pos {s : State} (h : 0 < s.sp) : ∃ (r : State) (a : Word), s = r.push a := by
  obtain ⟨a, rest, hstack⟩ := List.exists_cons_of_length_pos h
  exact ⟨s.setStack rest, a, by rw [State.push, State.setStack_stack, ← hstack]; rfl⟩

/-! ### Control transfer, one equation per outcome -/

/-- R116: a return undoes the push and goes to what was pushed, plus the epilogue's 2. -/
theorem exec_op00EE_push (r : State) (a : Word) : exec .op00EE (r.push a) = .next (r.setPc a).advance := rfl

theorem exec_op00EE_empty {s : State} (h : s.sp = 0) : exec .op00EE s = .next (s.raise .stackUnderflow) := by
  have hstack : s.stack = [] := List.eq_nil_of_length_eq_zero h
  change exec00EE s = _
  rw [exec00EE, hstack]

theorem exec_op0NNN (nnn : BitVec 12) (s : State) : exec (.op0NNN nnn) s = .next s.advance := rfl

theorem exec_op1NNN (nnn : BitVec 12) (s : State) : exec (.op1NNN nnn) s = .next (s.setPc (zext16 nnn)) := rfl

theorem exec_opBNNN (nnn : BitVec 12) (s : State) :
    exec (.opBNNN nnn) s = .next (s.setPc (zext16 nnn + zextByte (s.getV 0))) := rfl

/-- R120: the target of BNNN is at most 0xFFF + 0xFF, so the 16-bit sum does not wrap. -/
theorem jumpOffset_toNat (nnn : BitVec 12) (b : Byte) :
    (zext16 nnn + zextByte b).toNat = nnn.toNat + b.toNat := by
  have hnnn := nnn.isLt
  have hb := b.isLt
  rw [BitVec.toNat_add, zext16_toNat, zextByte_toNat]
  omega

/-! ### The statements on 00EE, 0NNN, 1NNN and BNNN -/

/-- Settles O23 (R116): a state with SP above 0 is a push of its newest entry, which the return undoes; an empty stack is the
underflow. -/
theorem returnPopsTheCallAddressAndGoesOnAfterIt : Obligations.ReturnPopsTheCallAddressAndGoesOnAfterIt := by
  constructor
  · intro s hsp
    obtain ⟨r, a, rfl⟩ := State.exists_push_of_sp_pos hsp
    have older : ∀ k, k < r.sp → r.stackEntry k = (r.push a).stackEntry k :=
      fun k hk => (State.stackEntry_push_older r a hk).symm
    have frame : KeepsAllBut [.stack] (r.push a) (r.setPc a).advance :=
      ((keepsAllBut_refl _ r).of_push (List.mem_singleton_self _) a).setPc a |>.advance
    exact ⟨a, (r.setPc a).advance, State.stackEntry_push_newest r a, exec_op00EE_push r a, rfl, rfl, older, frame⟩
  · intro s hsp
    exact exec_op00EE_empty hsp

/-- Settles O24 (R117): 0NNN is the epilogue alone. -/
theorem legacyCallOnlyAdvances : Obligations.LegacyCallOnlyAdvances := by
  intro nnn s
  exact ⟨s.advance, exec_op0NNN nnn s, s.advance_pc, (keepsAllBut_refl [] s).advance⟩

/-- Settles O25 (R118, R120): both jumps write `PC` and nothing else, BNNN the sum without a wrap. -/
theorem jumpsReplaceThePc : Obligations.JumpsReplaceThePc := by
  intro nnn s
  constructor
  · exact ⟨_, exec_op1NNN nnn s, zext16_toNat nnn, (keepsAllBut_refl [] s).setPc _⟩
  · exact ⟨_, exec_opBNNN nnn s, jumpOffset_toNat nnn (s.getV 0), (keepsAllBut_refl [] s).setPc _⟩

end Sys2Proof.Machine

namespace Sys2Proof.Machine

/-! ### The register skips -/

/-- A skip writes `PC` alone (R125). -/
theorem KeepsAllBut.skipIf {parts : List Part} {s t : State} (h : KeepsAllBut parts s t) (c : Bool) :
    KeepsAllBut parts s (t.skipIf c) :=
  h.setPc (if c then t.pc + 2 else t.pc)

/-- R126, R128: the skip on equality. -/
theorem State.skipIf_beq_advance_pc (s : State) (a b : Byte) :
    (s.skipIf (a == b)).advance.pc = s.pc + (if a = b then 4 else 2) := by
  rw [State.skipIf_advance_pc]
  simp only [beq_iff_eq]

/-- R127, R129: the skip on difference. -/
theorem State.skipIf_bne_advance_pc (s : State) (a b : Byte) :
    (s.skipIf (a != b)).advance.pc = s.pc + (if a = b then 2 else 4) := by
  rw [State.skipIf_advance_pc]
  simp only [bne_iff_ne, ite_not]

theorem exec_op3XNN (x : Reg) (nn : Byte) (s : State) :
    exec (.op3XNN x nn) s = .next (s.skipIf (s.getV x == nn)).advance := rfl

theorem exec_op4XNN (x : Reg) (nn : Byte) (s : State) :
    exec (.op4XNN x nn) s = .next (s.skipIf (s.getV x != nn)).advance := rfl

theorem exec_op5XY0 (x y : Reg) (s : State) :
    exec (.op5XY0 x y) s = .next (s.skipIf (s.getV x == s.getV y)).advance := rfl

theorem exec_op9XY0 (x y : Reg) (s : State) :
    exec (.op9XY0 x y) s = .next (s.skipIf (s.getV x != s.getV y)).advance := rfl

/-- Settles O28 (R126 to R129): each of the four is a conditional skip and the epilogue, which write `PC` alone; 3XNN and
5XY0 skip on equality, 4XNN and 9XY0 on difference. -/
theorem registerSkipsMoveThePcByFourOrTwo : Obligations.RegisterSkipsMoveThePcByFourOrTwo := by
  intro x y nn s
  have frame (c : Bool) : KeepsAllBut [] s (s.skipIf c).advance := ((keepsAllBut_refl [] s).skipIf c).advance
  refine ⟨?op3XNN, ?op4XNN, ?op5XY0, ?op9XY0⟩
  case op3XNN => exact ⟨_, exec_op3XNN x nn s, s.skipIf_beq_advance_pc _ _, frame _⟩
  case op4XNN => exact ⟨_, exec_op4XNN x nn s, s.skipIf_bne_advance_pc _ _, frame _⟩
  case op5XY0 => exact ⟨_, exec_op5XY0 x y s, s.skipIf_beq_advance_pc _ _, frame _⟩
  case op9XY0 => exact ⟨_, exec_op9XY0 x y s, s.skipIf_bne_advance_pc _ _, frame _⟩

end Sys2Proof.Machine

namespace Sys2Proof.Machine

/-! ### Frames of the register writes -/

/-- Where the registers are outside the frame, a register write keeps it. -/
theorem KeepsAllBut.setV {parts : List Part} (hregs : Part.regs ∈ parts) {s t : State}
    (h : KeepsAllBut parts s t) (x : Reg) (b : Byte) : KeepsAllBut parts s (t.setV x b) := by
  intro p hp
  have hkeep := h p hp
  cases p with
  | regs => exact absurd hregs hp
  | _ => simpa [Keeps] using hkeep

theorem keepsRegsBut_setV (s : State) (x : Reg) (b : Byte) : KeepsRegsBut [x] s (s.setV x b) := by
  intro r hr
  exact s.getV_setV_ne b (List.ne_of_not_mem_cons hr)

/-- R136: a flag writer changes its destination and `VF`. -/
theorem keepsRegsBut_setResultAndFlag (s : State) (x : Reg) (b : Byte) (c : Bool) :
    KeepsRegsBut [x, 15] s (s.setResultAndFlag x b c) := by
  intro r hr
  have hx : r ≠ x := List.ne_of_not_mem_cons hr
  have hflag : r ≠ 15 := List.ne_of_not_mem_cons (List.not_mem_of_not_mem_cons hr)
  rw [State.getV_setResultAndFlag, if_neg hflag, if_neg hx]

/-! ### Register load, arithmetic, logic and shift, one equation per instruction -/

theorem exec_op6XNN (x : Reg) (nn : Byte) (s : State) : exec (.op6XNN x nn) s = .next (s.setV x nn).advance := rfl

theorem exec_op7XNN (x : Reg) (nn : Byte) (s : State) :
    exec (.op7XNN x nn) s = .next (s.setV x (addResult (s.getV x) nn)).advance := rfl

theorem exec_op8XY0 (x y : Reg) (s : State) : exec (.op8XY0 x y) s = .next (s.setV x (s.getV y)).advance := rfl

theorem exec_op8XY1 (x y : Reg) (s : State) :
    exec (.op8XY1 x y) s = .next (s.setV x (s.getV x ||| s.getV y)).advance := rfl

theorem exec_op8XY2 (x y : Reg) (s : State) :
    exec (.op8XY2 x y) s = .next (s.setV x (s.getV x &&& s.getV y)).advance := rfl

theorem exec_op8XY3 (x y : Reg) (s : State) :
    exec (.op8XY3 x y) s = .next (s.setV x (s.getV x ^^^ s.getV y)).advance := rfl

theorem exec_op8XY4 (x y : Reg) (s : State) :
    exec (.op8XY4 x y) s = .next (s.setResultAndFlag x
      (addResult (s.getV x) (s.getV y)) (addCarry (s.getV x) (s.getV y))).advance := rfl

theorem exec_op8XY5 (x y : Reg) (s : State) :
    exec (.op8XY5 x y) s = .next (s.setResultAndFlag x
      (subResult (s.getV x) (s.getV y)) (notBorrow (s.getV x) (s.getV y))).advance := rfl

theorem exec_op8XY6 (x y : Reg) (s : State) :
    exec (.op8XY6 x y) s = .next (s.setResultAndFlag x (shrResult (s.getV y)) (shrOut (s.getV y))).advance := rfl

theorem exec_op8XY7 (x y : Reg) (s : State) :
    exec (.op8XY7 x y) s = .next (s.setResultAndFlag x
      (subResult (s.getV y) (s.getV x)) (notBorrow (s.getV y) (s.getV x))).advance := rfl

theorem exec_op8XYE (x y : Reg) (s : State) :
    exec (.op8XYE x y) s = .next (s.setResultAndFlag x (shlResult (s.getV y)) (shlOut (s.getV y))).advance := rfl

/-! ### The flags, in natural numbers (43_alu.md R135) -/

theorem addCarry_toNat (a b : Byte) : (flagByte (addCarry a b)).toNat = if 255 < a.toNat + b.toNat then 1 else 0 := by
  rw [flagByte_toNat, addCarry]
  simp only [decide_eq_true_eq]

theorem notBorrow_toNat (a b : Byte) : (flagByte (notBorrow a b)).toNat = if a.toNat < b.toNat then 0 else 1 := by
  rw [flagByte_toNat, notBorrow]
  simp only [decide_eq_true_eq, ← Nat.not_lt, ite_not]

/-! ### The two shapes of an instruction of this family -/

/-- An instruction that writes `VX` and no flag. -/
theorem exec_of_setV {i : Instr} {s : State} {x : Reg} {b : Byte}
    (hexec : exec i s = .next (s.setV x b).advance) :
    ∃ t, exec i s = .next t ∧ t.getV x = b ∧ t.pc = s.pc + 2 ∧
      KeepsRegsBut [x] s t ∧ KeepsAllBut [.regs] s t := by
  have frame : KeepsAllBut [.regs] s (s.setV x b).advance :=
    ((keepsAllBut_refl _ s).setV (List.mem_singleton_self _) x b).advance
  exact ⟨_, hexec, s.getV_setV_self x b, rfl, keepsRegsBut_setV s x b, frame⟩

/-- An instruction that writes a result and then the flag (R136): where the destination is `VF` the flag stays. -/
theorem exec_of_setResultAndFlag {i : Instr} {s : State} {x : Reg} {b : Byte} {c : Bool} {result flag : Nat}
    (hexec : exec i s = .next (s.setResultAndFlag x b c).advance)
    (hresult : b.toNat = result) (hflag : (flagByte c).toNat = flag) :
    ∃ t, exec i s = .next t ∧ (x ≠ 15 → (t.getV x).toNat = result) ∧ (t.getV 15).toNat = flag ∧
      t.pc = s.pc + 2 ∧ KeepsRegsBut [x, 15] s t ∧ KeepsAllBut [.regs] s t := by
  refine ⟨_, hexec, ?result, ?flag, rfl, keepsRegsBut_setResultAndFlag s x b c, ?frame⟩
  case result =>
    intro hx
    rw [State.getV_advance, State.getV_setResultAndFlag, if_neg hx, if_pos rfl, hresult]
  case flag => rw [State.getV_advance, State.getV_setResultAndFlag, if_pos rfl, hflag]
  case frame =>
    have hregs : Part.regs ∈ [Part.regs] := List.mem_singleton_self _
    exact (((keepsAllBut_refl _ s).setV hregs x b).setV hregs flagReg (flagByte c)).advance

/-! ### The statements on 6XNN, 7XNN and 8XY0 to 8XYE -/

/-- Settles O30 (R137, R138): both write `VX` and no flag, 7XNN the sum modulo 256. -/
theorem immediateLoadAndAddSetTheRegisterOnly : Obligations.ImmediateLoadAndAddSetTheRegisterOnly := by
  intro x nn s
  constructor
  · exact exec_of_setV (exec_op6XNN x nn s)
  · obtain ⟨t, hexec, hsum, frame⟩ := exec_of_setV (exec_op7XNN x nn s)
    exact ⟨t, hexec, by rw [hsum, addResult_toNat], frame⟩

/-- Settles O31 (R139 to R142): the four write `VX` and no flag; the three logical operations act on each bit alone. -/
theorem copyAndLogicSetTheRegisterOnly : Obligations.CopyAndLogicSetTheRegisterOnly := by
  intro x y s
  refine ⟨?op8XY0, ?op8XY1, ?op8XY2, ?op8XY3⟩
  case op8XY0 => exact exec_of_setV (exec_op8XY0 x y s)
  case op8XY1 =>
    obtain ⟨t, hexec, hor, frame⟩ := exec_of_setV (exec_op8XY1 x y s)
    exact ⟨t, hexec, fun k => by rw [hor, BitVec.getLsbD_or], frame⟩
  case op8XY2 =>
    obtain ⟨t, hexec, hand, frame⟩ := exec_of_setV (exec_op8XY2 x y s)
    exact ⟨t, hexec, fun k => by rw [hand, BitVec.getLsbD_and], frame⟩
  case op8XY3 =>
    obtain ⟨t, hexec, hxor, frame⟩ := exec_of_setV (exec_op8XY3 x y s)
    exact ⟨t, hexec, fun k => by rw [hxor, BitVec.getLsbD_xor], frame⟩

/-- Settles O32 (R143): the sum of the old operands, then the carry. -/
theorem addSetsTheSumAndTheCarry : Obligations.AddSetsTheSumAndTheCarry := by
  intro x y s
  exact exec_of_setResultAndFlag (exec_op8XY4 x y s) (addResult_toNat _ _) (addCarry_toNat _ _)

/-- Settles O33 (R144, R146): the difference of the old operands, in either order, then not-borrow. -/
theorem subtractionsSetTheDifferenceAndNotBorrow : Obligations.SubtractionsSetTheDifferenceAndNotBorrow := by
  intro x y s
  constructor
  · exact exec_of_setResultAndFlag (exec_op8XY5 x y s) (subResult_toNat _ _) (notBorrow_toNat _ _)
  · exact exec_of_setResultAndFlag (exec_op8XY7 x y s) (subResult_toNat _ _) (notBorrow_toNat _ _)

/-- Settles O34 (R145, R147): the old `VY` halved or doubled, then the bit that leaves the byte. -/
theorem shiftsMoveVYByOneAndKeepTheBitShiftedOut : Obligations.ShiftsMoveVYByOneAndKeepTheBitShiftedOut := by
  intro x y s
  constructor
  · exact exec_of_setResultAndFlag (exec_op8XY6 x y s) (shrResult_toNat _) (shrOut_toNat _)
  · exact exec_of_setResultAndFlag (exec_op8XYE x y s) (shlResult_toNat _) (shlOut_toNat _)

end Sys2Proof.Machine

namespace Sys2Proof.Machine

/-! ### The index register -/

/-- Where `I` is outside the frame, writing it keeps the frame. -/
theorem KeepsAllBut.setI {parts : List Part} (hindex : Part.index ∈ parts) {s t : State}
    (h : KeepsAllBut parts s t) (w : Word) : KeepsAllBut parts s (t.setI w) := by
  intro p hp
  have hkeep := h p hp
  cases p with
  | index => exact absurd hindex hp
  | _ => simpa [Keeps] using hkeep

theorem exec_opANNN (nnn : BitVec 12) (s : State) : exec (.opANNN nnn) s = .next (s.setI (zext16 nnn)).advance := rfl

theorem exec_opFX29 (x : Reg) (s : State) :
    exec (.opFX29 x) s = .next (s.setI (glyphAddress (s.getV x))).advance := rfl

/-- An instruction that writes `I` and no register. -/
theorem exec_of_setI {i : Instr} {s : State} {w : Word} {index : Nat}
    (hexec : exec i s = .next (s.setI w).advance) (hindex : w.toNat = index) :
    ∃ t, exec i s = .next t ∧ t.i.toNat = index ∧ t.pc = s.pc + 2 ∧ KeepsAllBut [.index] s t := by
  have frame : KeepsAllBut [.index] s (s.setI w).advance :=
    ((keepsAllBut_refl _ s).setI (List.mem_singleton_self _) w).advance
  exact ⟨_, hexec, hindex, rfl, frame⟩

/-- Settles O36 (R156, R158): both write `I` alone; five times a whole byte is at most 1275, so the product does not wrap. -/
theorem indexLoadsSetI : Obligations.IndexLoadsSetI := by
  intro nnn x s
  constructor
  · exact exec_of_setI (exec_opANNN nnn s) (zext16_toNat nnn)
  · exact exec_of_setI (exec_opFX29 x s) (glyphAddress_toNat (s.getV x))

end Sys2Proof.Machine

namespace Sys2Proof.Machine

/-! ### The display -/

/-- Where the display is outside the frame, writing it keeps the frame. -/
theorem KeepsAllBut.setDisp {parts : List Part} (hdisplay : Part.display ∈ parts) {s t : State}
    (h : KeepsAllBut parts s t) (d : Frame) : KeepsAllBut parts s (t.setDisp d) := by
  intro p hp
  have hkeep := h p hp
  cases p with
  | display => exact absurd hdisplay hp
  | _ => simpa [Keeps] using hkeep

@[simp] theorem State.pixel_setDisp (s : State) (d : Frame) (x : Fin 64) (y : Fin 32) :
    (s.setDisp d).pixel x y = d.pixel x y := rfl

theorem exec_op00E0 (s : State) : exec .op00E0 s = .next (s.setDisp Frame.clear).advance := rfl

/-- Settles O44 (R166): the new display is the empty frame, and nothing else but `PC` is written. -/
theorem clearTurnsEveryPixelOff : Obligations.ClearTurnsEveryPixelOff := by
  intro s
  have pixels (x : Fin 64) (y : Fin 32) : (s.setDisp Frame.clear).advance.pixel x y = false := by
    rw [State.pixel_advance, State.pixel_setDisp, Frame.pixel_clear]
  have frame : KeepsAllBut [.display] s (s.setDisp Frame.clear).advance :=
    ((keepsAllBut_refl _ s).setDisp (List.mem_singleton_self _) Frame.clear).advance
  exact ⟨_, exec_op00E0 s, pixels, State.advance_pc _, frame⟩

end Sys2Proof.Machine

namespace Sys2Proof.Machine

/-! ### The timers -/

/-- Where the delay timer is outside the frame, writing it keeps the frame. -/
theorem KeepsAllBut.setDt {parts : List Part} (hdelay : Part.delayTimer ∈ parts) {s t : State}
    (h : KeepsAllBut parts s t) (d : Timer) : KeepsAllBut parts s (t.setDt d) := by
  intro p hp
  have hkeep := h p hp
  cases p with
  | delayTimer => exact absurd hdelay hp
  | _ => simpa [Keeps] using hkeep

/-- Where the sound timer is outside the frame, writing it keeps the frame. -/
theorem KeepsAllBut.setSt {parts : List Part} (hsound : Part.soundTimer ∈ parts) {s t : State}
    (h : KeepsAllBut parts s t) (d : Timer) : KeepsAllBut parts s (t.setSt d) := by
  intro p hp
  have hkeep := h p hp
  cases p with
  | soundTimer => exact absurd hsound hp
  | _ => simpa [Keeps] using hkeep

theorem exec_opFX07 (x : Reg) (s : State) : exec (.opFX07 x) s = .next (s.setV x s.dt).advance := rfl

theorem exec_opFX15 (x : Reg) (s : State) : exec (.opFX15 x) s = .next (s.setDt (s.getV x)).advance := rfl

theorem exec_opFX18 (x : Reg) (s : State) : exec (.opFX18 x) s = .next (s.setSt (s.getV x)).advance := rfl

/-- Settles O47 (R176, R178, R179): FX07 is a write of `VX` alone, FX15 and FX18 each of one timer alone; the timers are as
wide as `VX`, so each copy is exact. -/
theorem timerInstructionsCopyVX : Obligations.TimerInstructionsCopyVX := by
  intro x s
  refine ⟨?opFX07, ?opFX15, ?opFX18⟩
  case opFX07 => exact exec_of_setV (exec_opFX07 x s)
  case opFX15 =>
    have frame : KeepsAllBut [.delayTimer] s (s.setDt (s.getV x)).advance :=
      ((keepsAllBut_refl _ s).setDt (List.mem_singleton_self _) (s.getV x)).advance
    exact ⟨_, exec_opFX15 x s, State.setDt_dt s _, State.advance_pc _, frame⟩
  case opFX18 =>
    have frame : KeepsAllBut [.soundTimer] s (s.setSt (s.getV x)).advance :=
      ((keepsAllBut_refl _ s).setSt (List.mem_singleton_self _) (s.getV x)).advance
    exact ⟨_, exec_opFX18 x s, State.setSt_st s _, State.advance_pc _, frame⟩

end Sys2Proof.Machine

namespace Sys2Proof

/-! ### The decoder on the formats (30_encoding.md R82, R84) -/

/-- R88: a well-formed 0NNN is neither of the two fixed codes, whose `NNN` are 0E0 and 0EE. -/
theorem decode0_encodeNNN {nnn : BitVec 12} (hwf : (Instr.op0NNN nnn).wf = true) :
    decode0 (encodeNNN 0x0 nnn) = some (.op0NNN nnn) := by
  simp only [Instr.wf, Bool.and_eq_true, bne_iff_ne] at hwf
  have hfield := encodeNNN_nnn 0x0 nnn
  have h00E0 : encodeNNN 0x0 nnn ≠ 0x00E0#16 := fun h => hwf.1 (by rw [← hfield, h]; rfl)
  have h00EE : encodeNNN 0x0 nnn ≠ 0x00EE#16 := fun h => hwf.2 (by rw [← hfield, h]; rfl)
  rw [decode0, if_neg h00E0, if_neg h00EE, hfield]

/-- R84: the first nibble selects the row, the sub-opcode the instruction in it, and the fields are read back. -/
theorem decodeOp_encode (i : Instr) (hwf : i.wf = true) : decodeOp (encode i) = some i := by
  cases i with
  | op00E0 | op00EE => rfl
  | op0NNN nnn =>
    rw [encode, decodeOp, encodeNNN_n0]
    exact decode0_encodeNNN hwf
  | op1NNN nnn | op2NNN nnn | opANNN nnn | opBNNN nnn =>
    simp [encode, decodeOp, encodeNNN_n0, encodeNNN_nnn]
  | op3XNN x nn | op4XNN x nn | op6XNN x nn | op7XNN x nn | opCXNN x nn =>
    simp [encode, decodeOp, encodeXNN_n0, encodeXNN_x, encodeXNN_nn]
  | op5XY0 x y | op9XY0 x y =>
    simp [encode, decodeOp, encodeXYN_n0, encodeXYN_x, encodeXYN_y, encodeXYN_n3]
  | op8XY0 x y | op8XY1 x y | op8XY2 x y | op8XY3 x y | op8XY4 x y | op8XY5 x y | op8XY6 x y | op8XY7 x y
  | op8XYE x y =>
    simp [encode, decodeOp, decode8, encodeXYN_n0, encodeXYN_x, encodeXYN_y, encodeXYN_n3]
  | opDXYN x y n =>
    have hn : fieldN (encodeXYN 0xD#4 x y n) = n := encodeXYN_n3 _ x y n
    simp [encode, decodeOp, encodeXYN_n0, encodeXYN_x, encodeXYN_y, hn]
  | opEX9E x | opEXA1 x =>
    simp [encode, decodeOp, decodeE, encodeXNN_n0, encodeXNN_x, encodeXNN_nn]
  | opFX07 x | opFX0A x | opFX15 x | opFX18 x | opFX1E x | opFX29 x | opFX33 x | opFX55 x | opFX65 x =>
    simp [encode, decodeOp, decodeF, encodeXNN_n0, encodeXNN_x, encodeXNN_nn]

/-- R80, R81: the decoder on a byte stream is `decodeOp` on the word of its first two bytes. -/
theorem decode_wordBytes_append {op : Word} {i : Instr} (h : decodeOp op = some i) (rest : List Byte) :
    decode (wordBytes op ++ rest) = .ok (i, rest) := by
  simp [wordBytes, decode, opcodeWord_of_bytes, h]

/-- Settles O2 (R82, R84, R86): by the format of each instruction, whose fields the decoder reads back. -/
theorem decodeOfEncodeIsTheInstruction : Obligations.DecodeOfEncodeIsTheInstruction := by
  intro i rest hwf
  have hword := decodeOp_encode i hwf
  exact ⟨hword, decode_wordBytes_append hword rest⟩

/-- Settles O1 (R84, R86, R94): the decoder runs on each of the eight byte pairs. -/
theorem sampleWordsDecodeAsTheTableSays : Obligations.SampleWordsDecodeAsTheTableSays := by
  unfold Obligations.SampleWordsDecodeAsTheTableSays
  decide

/-! ### The encoder on what was decoded (R89) -/

/-- A nibble of a word, as a constant. -/
theorem nibbleAt_eq {op : Word} {lo k : Nat} (h : (nibbleAt op lo).toNat = k) : nibbleAt op lo = BitVec.ofNat 4 k := by
  rw [← h, BitVec.ofNat_toNat, BitVec.setWidth_eq]

/-- The low byte of a word, as a constant. -/
theorem fieldNN_eq {op : Word} {k : Nat} (h : (fieldNN op).toNat = k) : fieldNN op = BitVec.ofNat 8 k := by
  rw [← h, BitVec.ofNat_toNat, BitVec.setWidth_eq]

theorem encodeNNN_eq {op : Word} {n0 : BitVec 4} (h0 : nibbleAt op 12 = n0) : encodeNNN n0 (fieldNNN op) = op := by
  rw [← h0, encodeNNN_of_fields]

theorem encodeXNN_eq {op : Word} {n0 : BitVec 4} {nn : Byte} (h0 : nibbleAt op 12 = n0) (hnn : fieldNN op = nn) :
    encodeXNN n0 (fieldX op) nn = op := by
  rw [← h0, ← hnn, encodeXNN_of_fields]

theorem encodeXYN_eq {op : Word} {n0 n3 : BitVec 4} (h0 : nibbleAt op 12 = n0) (h3 : nibbleAt op 0 = n3) :
    encodeXYN n0 (fieldX op) (fieldY op) n3 = op := by
  rw [← h0, ← h3, encodeXYN_of_fields]

/-- R84: what is left in the group of `n0 = 0` is a well-formed 0NNN. -/
theorem encode_of_decode0 {op : Word} {i : Instr} (h0 : nibbleAt op 12 = 0x0) (h : decode0 op = some i) :
    encode i = op ∧ i.wf = true := by
  unfold decode0 at h
  split at h
  case isTrue h00E0 => cases h; exact ⟨h00E0.symm, rfl⟩
  split at h
  case isTrue h00EE => cases h; exact ⟨h00EE.symm, rfl⟩
  case isFalse h00E0 h00EE =>
    cases h
    have hword : encodeNNN 0x0 (fieldNNN op) = op := encodeNNN_eq h0
    have hne0 : fieldNNN op ≠ 0x0E0#12 := fun h => h00E0 (by rw [← hword, h]; rfl)
    have hneE : fieldNNN op ≠ 0x0EE#12 := fun h => h00EE (by rw [← hword, h]; rfl)
    exact ⟨hword, by simp [Instr.wf, hne0, hneE]⟩

theorem encode_of_decode8 {op : Word} {i : Instr} (h0 : nibbleAt op 12 = 0x8) (h : decode8 op = some i) :
    encode i = op ∧ i.wf = true := by
  unfold decode8 at h
  split at h <;> cases h <;> exact ⟨encodeXYN_eq h0 (nibbleAt_eq ‹_›), rfl⟩

theorem encode_of_decodeE {op : Word} {i : Instr} (h0 : nibbleAt op 12 = 0xE) (h : decodeE op = some i) :
    encode i = op ∧ i.wf = true := by
  unfold decodeE at h
  split at h <;> cases h <;> exact ⟨encodeXNN_eq h0 (fieldNN_eq ‹_›), rfl⟩

theorem encode_of_decodeF {op : Word} {i : Instr} (h0 : nibbleAt op 12 = 0xF) (h : decodeF op = some i) :
    encode i = op ∧ i.wf = true := by
  unfold decodeF at h
  split at h <;> cases h <;> exact ⟨encodeXNN_eq h0 (fieldNN_eq ‹_›), rfl⟩

/-- Settles O3 (R89): by the group of the first nibble; the fields decoded make the word up again. -/
theorem encodeOfDecodeIsTheWord : Obligations.EncodeOfDecodeIsTheWord := by
  intro op i h
  unfold decodeOp at h
  split at h
  case h_1 h0 => exact encode_of_decode0 (nibbleAt_eq h0) h
  case h_2 h0 | h_3 h0 | h_11 h0 | h_12 h0 => cases h; exact ⟨encodeNNN_eq (nibbleAt_eq h0), rfl⟩
  case h_4 h0 | h_5 h0 | h_7 h0 | h_8 h0 | h_13 h0 => cases h; exact ⟨encodeXNN_eq (nibbleAt_eq h0) rfl, rfl⟩
  case h_6 h0 | h_10 h0 =>
    split at h
    case isTrue h3 => cases h; exact ⟨encodeXYN_eq (nibbleAt_eq h0) h3, rfl⟩
    case isFalse => cases h
  case h_9 h0 => exact encode_of_decode8 (nibbleAt_eq h0) h
  case h_14 h0 => cases h; exact ⟨encodeXYN_eq (nibbleAt_eq h0) rfl, rfl⟩
  case h_15 h0 => exact encode_of_decodeE (nibbleAt_eq h0) h
  case h_16 hother =>
    have hF : (nibbleAt op 12).toNat = 0xF := by
      have hlt := (nibbleAt op 12).isLt
      simp only [imp_false] at *
      omega
    exact encode_of_decodeF (nibbleAt_eq hF) h

/-! ### The illegal words (R87) -/

theorem nibbleAt_n0_toNat (op : Word) : (nibbleAt op 12).toNat = op.toNat / 0x1000 := by
  have := op.isLt
  rw [nibbleAt, slice_toNat]
  omega

theorem nibbleAt_n3_toNat (op : Word) : (nibbleAt op 0).toNat = op.toNat % 16 := by
  rw [nibbleAt, slice_toNat]
  omega

theorem fieldNN_toNat (op : Word) : (fieldNN op).toNat = op.toNat % 256 := by
  rw [fieldNN, slice_toNat]
  omega

theorem nibbleAt_n3_eq_zero_iff (op : Word) : nibbleAt op 0 = 0#4 ↔ op.toNat % 16 = 0 := by
  rw [← BitVec.toNat_inj, nibbleAt_n3_toNat]
  rfl

theorem decode0_ne_none (op : Word) : decode0 op ≠ none := by
  unfold decode0
  split
  · simp
  · split <;> simp

theorem decode8_eq_none_iff (op : Word) :
    decode8 op = none ↔ op.toNat % 16 ∈ [0x8, 0x9, 0xA, 0xB, 0xC, 0xD, 0xF] := by
  rw [decode8, nibbleAt_n3_toNat]
  split
  case h_10 =>
    simp only [imp_false] at *
    simp only [List.mem_cons, List.not_mem_nil, or_false, true_iff]
    omega
  all_goals simp [*]

theorem decodeE_eq_none_iff (op : Word) : decodeE op = none ↔ op.toNat % 256 ∉ [0x9E, 0xA1] := by
  rw [decodeE, fieldNN_toNat]
  split <;> simp_all

theorem decodeF_eq_none_iff (op : Word) :
    decodeF op = none ↔ op.toNat % 256 ∉ [0x07, 0x0A, 0x15, 0x18, 0x1E, 0x29, 0x33, 0x55, 0x65] := by
  rw [decodeF, fieldNN_toNat]
  split <;> simp_all

/-- Settles O4 (R87): by the group of the first nibble; only groups 5, 8, 9, E and F hold words that do not decode. -/
theorem illegalWordsAreThoseListed : Obligations.IllegalWordsAreThoseListed := by
  intro op
  have hlt := op.isLt
  rw [decodeOp, nibbleAt_n0_toNat]
  split
  case h_1 h0 => simp [h0, decode0_ne_none]
  case h_6 h0 | h_10 h0 => simp [h0, nibbleAt_n3_eq_zero_iff]
  case h_9 h0 => simp only [h0, decode8_eq_none_iff]; simp
  case h_15 h0 => simp only [h0, decodeE_eq_none_iff]; simp
  case h_16 =>
    have h0 : op.toNat / 0x1000 = 0xF := by
      simp only [imp_false] at *
      omega
    simp only [h0, decodeF_eq_none_iff]; simp
  all_goals simp [*]

end Sys2Proof

namespace Sys2Proof.Machine

/-! ### Frames of the remaining state operations -/

/-- Where the registers are outside the frame, a load of several of them keeps it. -/
theorem KeepsAllBut.setRegs {parts : List Part} (hregs : Part.regs ∈ parts) {s t : State}
    (h : KeepsAllBut parts s t) (v : RegFile) : KeepsAllBut parts s (t.setRegs v) := by
  intro p hp
  have hkeep := h p hp
  cases p with
  | regs => exact absurd hregs hp
  | _ => simpa [Keeps] using hkeep

/-- A flag is a register write (R21). -/
theorem KeepsAllBut.setFlag {parts : List Part} (hregs : Part.regs ∈ parts) {s t : State}
    (h : KeepsAllBut parts s t) (c : Bool) : KeepsAllBut parts s (t.setFlag c) :=
  h.setV hregs flagReg (flagByte c)

/-- Where memory is outside the frame, a store keeps it. -/
theorem KeepsAllBut.setMem {parts : List Part} (hmemory : Part.memory ∈ parts) {s t : State}
    (h : KeepsAllBut parts s t) (m : Memory) : KeepsAllBut parts s (t.setMem m) := by
  intro p hp
  have hkeep := h p hp
  cases p with
  | memory => exact absurd hmemory hp
  | _ => simpa [Keeps] using hkeep

/-- Where the stack is outside the frame, a push keeps it. -/
theorem KeepsAllBut.push {parts : List Part} (hstack : Part.stack ∈ parts) {s t : State}
    (h : KeepsAllBut parts s t) (a : Word) : KeepsAllBut parts s (t.push a) := by
  intro p hp
  have hkeep := h p hp
  cases p with
  | stack => exact absurd hstack hp
  | _ => simpa [Keeps] using hkeep

/-- Where the wait state is outside the frame, entering it keeps the frame. -/
theorem KeepsAllBut.block {parts : List Part} (hwait : Part.wait ∈ parts) {s t : State}
    (h : KeepsAllBut parts s t) (x : Reg) : KeepsAllBut parts s (t.block x) := by
  intro p hp
  have hkeep := h p hp
  cases p with
  | wait => exact absurd hwait hp
  | _ => simpa [Keeps] using hkeep

/-- Where the draw counter is outside the frame, a draw keeps it. -/
theorem KeepsAllBut.drawn {parts : List Part} (hdraws : Part.draws ∈ parts) {s t : State}
    (h : KeepsAllBut parts s t) : KeepsAllBut parts s t.drawn := by
  intro p hp
  have hkeep := h p hp
  cases p with
  | draws => exact absurd hdraws hp
  | _ => simpa [Keeps] using hkeep

/-! ### The shapes of an instruction: what it writes, and the epilogue -/

section Shapes

variable {parts : List Part} (s : State)

theorem keepsAllBut_setV_advance (hregs : Part.regs ∈ parts) (x : Reg) (b : Byte) :
    KeepsAllBut parts s (s.setV x b).advance :=
  ((keepsAllBut_refl _ s).setV hregs x b).advance

theorem keepsAllBut_setResultAndFlag_advance (hregs : Part.regs ∈ parts) (x : Reg) (b : Byte) (c : Bool) :
    KeepsAllBut parts s (s.setResultAndFlag x b c).advance :=
  (((keepsAllBut_refl _ s).setV hregs x b).setFlag hregs c).advance

theorem keepsAllBut_setI_advance (hindex : Part.index ∈ parts) (w : Word) :
    KeepsAllBut parts s (s.setI w).advance :=
  ((keepsAllBut_refl _ s).setI hindex w).advance

theorem keepsAllBut_skipIf_advance (c : Bool) : KeepsAllBut parts s (s.skipIf c).advance :=
  ((keepsAllBut_refl _ s).skipIf c).advance

theorem keepsAllBut_skipIf_drawn_advance (hdraws : Part.draws ∈ parts) (c : Bool) :
    KeepsAllBut parts s (s.skipIf c).drawn.advance :=
  (((keepsAllBut_refl _ s).skipIf c).drawn hdraws).advance

theorem keepsAllBut_setV_drawn_advance (hregs : Part.regs ∈ parts) (hdraws : Part.draws ∈ parts) (x : Reg) (b : Byte) :
    KeepsAllBut parts s (s.setV x b).drawn.advance :=
  (((keepsAllBut_refl _ s).setV hregs x b).drawn hdraws).advance

theorem keepsAllBut_setMem_advance (hmemory : Part.memory ∈ parts) (m : Memory) :
    KeepsAllBut parts s (s.setMem m).advance :=
  ((keepsAllBut_refl _ s).setMem hmemory m).advance

theorem keepsAllBut_setRegs_advance (hregs : Part.regs ∈ parts) (v : RegFile) :
    KeepsAllBut parts s (s.setRegs v).advance :=
  ((keepsAllBut_refl _ s).setRegs hregs v).advance

theorem keepsAllBut_drawSpriteAt_advance (hregs : Part.regs ∈ parts) (hdisplay : Part.display ∈ parts) (x y : Reg)
    (n : BitVec 4) : KeepsAllBut parts s (s.drawSpriteAt x y n).advance :=
  (((keepsAllBut_refl _ s).setDisp hdisplay _).setFlag hregs _).advance

end Shapes

/-! ### The remaining instructions, one equation per outcome -/

theorem exec_op2NNN_pushes (nnn : BitVec 12) {s : State} (h : s.sp < 16) :
    exec (.op2NNN nnn) s = .next ((s.push s.pc).setPc (zext16 nnn)) :=
  congrArg Host.Outcome.next (if_neg (Nat.not_le.mpr h))

theorem exec_op2NNN_overflows (nnn : BitVec 12) {s : State} (h : 16 ≤ s.sp) :
    exec (.op2NNN nnn) s = .next (s.raise .stackOverflow) :=
  congrArg Host.Outcome.next (if_pos h)

theorem exec_opCXNN (x : Reg) (nn : Byte) (s : State) :
    exec (.opCXNN x nn) s = .next (s.setV x (s.sampledRnd &&& nn)).drawn.advance := rfl

theorem exec_opEX9E (x : Reg) (s : State) :
    exec (.opEX9E x) s = .next (s.skipIf (keyDown s.sampledKeys (keyOf (s.getV x)))).drawn.advance := rfl

theorem exec_opEXA1 (x : Reg) (s : State) :
    exec (.opEXA1 x) s = .next (s.skipIf (!keyDown s.sampledKeys (keyOf (s.getV x)))).drawn.advance := rfl

theorem exec_opFX0A (x : Reg) (s : State) : exec (.opFX0A x) s = .next (s.block x) := rfl

theorem exec_opFX1E (x : Reg) (s : State) :
    exec (.opFX1E x) s = .next (s.setI (indexSum s.i (s.getV x))).advance := rfl

theorem exec_opDXYN (x y : Reg) (n : BitVec 4) (s : State) :
    exec (.opDXYN x y n) s = .next (s.checked s.i.toNat n.toNat (s.drawSpriteAt x y n).advance) := rfl

theorem exec_opFX33 (x : Reg) (s : State) :
    exec (.opFX33 x) s = .next
      (s.checked s.i.toNat 3 (s.setMem (s.mem.writeBlock s.i.toNat (bcdDigits (s.getV x)))).advance) := rfl

theorem exec_opFX55 (x : Reg) (s : State) :
    exec (.opFX55 x) s = .next
      (s.checked s.i.toNat (x.val + 1) (s.setMem (s.mem.writeBlock s.i.toNat (s.firstRegs x))).advance) := rfl

theorem exec_opFX65 (x : Reg) (s : State) :
    exec (.opFX65 x) s = .next
      (s.checked s.i.toNat (x.val + 1) (s.setRegs (loadRegs s.mem s.i.toNat s.v (x.val + 1))).advance) := rfl

/-- R116: a return underflows, or undoes a push. -/
theorem exec_op00EE_cases {s t : State} (h : exec .op00EE s = .next t) :
    s.sp = 0 ∧ t = s.raise .stackUnderflow ∨ ∃ r a, s = State.push r a ∧ t = (r.setPc a).advance := by
  rcases Nat.eq_zero_or_pos s.sp with hsp | hsp
  · rw [exec_op00EE_empty hsp] at h
    cases h
    exact .inl ⟨hsp, rfl⟩
  · obtain ⟨r, a, rfl⟩ := State.exists_push_of_sp_pos hsp
    cases h
    exact .inr ⟨r, a, rfl, rfl⟩

/-- R119: a call pushes `PC` and jumps, or overflows. -/
theorem exec_op2NNN_cases {nnn : BitVec 12} {s t : State} (h : exec (.op2NNN nnn) s = .next t) :
    s.sp < 16 ∧ t = (s.push s.pc).setPc (zext16 nnn) ∨ 16 ≤ s.sp ∧ t = s.raise .stackOverflow := by
  rcases Nat.lt_or_ge s.sp 16 with hsp | hsp
  · rw [exec_op2NNN_pushes nnn hsp] at h
    cases h
    exact .inl ⟨hsp, rfl⟩
  · rw [exec_op2NNN_overflows nnn hsp] at h
    cases h
    exact .inr ⟨hsp, rfl⟩

/-! ### Every instruction has a next state, in its frame -/

theorem exec_op00EE_frame (s : State) : ∃ t, exec .op00EE s = .next t ∧ KeepsAllBut [.stack, .fault] s t := by
  rcases Nat.eq_zero_or_pos s.sp with hsp | hsp
  · exact ⟨_, exec_op00EE_empty hsp, keepsAllBut_raise (by simp) s _⟩
  · obtain ⟨r, a, rfl⟩ := State.exists_push_of_sp_pos hsp
    exact ⟨_, exec_op00EE_push r a, (((keepsAllBut_refl _ r).of_push (by simp) a).setPc a).advance⟩

theorem exec_op2NNN_frame (nnn : BitVec 12) (s : State) :
    ∃ t, exec (.op2NNN nnn) s = .next t ∧ KeepsAllBut [.stack, .fault] s t := by
  rcases Nat.lt_or_ge s.sp 16 with hsp | hsp
  · exact ⟨_, exec_op2NNN_pushes nnn hsp, ((keepsAllBut_refl _ s).push (by simp) s.pc).setPc _⟩
  · exact ⟨_, exec_op2NNN_overflows nnn hsp, keepsAllBut_raise (by simp) s _⟩

/-- R106: every instruction in every state has a next state, which keeps what the instruction is not listed for. -/
theorem exec_frame (i : Instr) (s : State) : ∃ t, exec i s = .next t ∧ KeepsAllBut (partsOf i) s t := by
  have hrefl {parts : List Part} : KeepsAllBut parts s s := keepsAllBut_refl parts s
  cases i with
  | op00E0 => exact ⟨_, exec_op00E0 s, (hrefl.setDisp (by simp [partsOf]) _).advance⟩
  | op00EE => exact exec_op00EE_frame s
  | op0NNN nnn => exact ⟨_, exec_op0NNN nnn s, hrefl.advance⟩
  | op1NNN nnn => exact ⟨_, exec_op1NNN nnn s, hrefl.setPc _⟩
  | op2NNN nnn => exact exec_op2NNN_frame nnn s
  | opBNNN nnn => exact ⟨_, exec_opBNNN nnn s, hrefl.setPc _⟩
  | op3XNN | op4XNN | op5XY0 | op9XY0 => exact ⟨_, rfl, keepsAllBut_skipIf_advance s _⟩
  | opEX9E | opEXA1 => exact ⟨_, rfl, keepsAllBut_skipIf_drawn_advance s (by simp [partsOf]) _⟩
  | op6XNN | op7XNN | op8XY0 | op8XY1 | op8XY2 | op8XY3 | opFX07 =>
    exact ⟨_, rfl, keepsAllBut_setV_advance s (by simp [partsOf]) _ _⟩
  | op8XY4 | op8XY5 | op8XY6 | op8XY7 | op8XYE =>
    exact ⟨_, rfl, keepsAllBut_setResultAndFlag_advance s (by simp [partsOf]) _ _ _⟩
  | opANNN | opFX1E | opFX29 => exact ⟨_, rfl, keepsAllBut_setI_advance s (by simp [partsOf]) _⟩
  | opCXNN x nn =>
    exact ⟨_, exec_opCXNN x nn s, keepsAllBut_setV_drawn_advance s (by simp [partsOf]) (by simp [partsOf]) _ _⟩
  | opDXYN x y n =>
    exact ⟨_, exec_opDXYN x y n s, keepsAllBut_checked (by simp [partsOf]) _ _
      (keepsAllBut_drawSpriteAt_advance s (by simp [partsOf]) (by simp [partsOf]) x y n)⟩
  | opFX0A x => exact ⟨_, exec_opFX0A x s, hrefl.block (by simp [partsOf]) x⟩
  | opFX15 x => exact ⟨_, exec_opFX15 x s, (hrefl.setDt (by simp [partsOf]) _).advance⟩
  | opFX18 x => exact ⟨_, exec_opFX18 x s, (hrefl.setSt (by simp [partsOf]) _).advance⟩
  | opFX33 x =>
    exact ⟨_, exec_opFX33 x s, keepsAllBut_checked (by simp [partsOf]) _ _
      (keepsAllBut_setMem_advance s (by simp [partsOf]) _)⟩
  | opFX55 x =>
    exact ⟨_, exec_opFX55 x s, keepsAllBut_checked (by simp [partsOf]) _ _
      (keepsAllBut_setMem_advance s (by simp [partsOf]) _)⟩
  | opFX65 x =>
    exact ⟨_, exec_opFX65 x s, keepsAllBut_checked (by simp [partsOf]) _ _
      (keepsAllBut_setRegs_advance s (by simp [partsOf]) _)⟩

theorem exec_keepsAllBut {i : Instr} {s t : State} (h : exec i s = .next t) : KeepsAllBut (partsOf i) s t := by
  obtain ⟨u, hexec, frame⟩ := exec_frame i s
  obtain rfl : u = t := Host.Outcome.next.inj (hexec.symm.trans h)
  exact frame

/-- Settles O11 (R106): by the shape of each instruction. -/
theorem onlyListedInstructionsWriteEachPart : Obligations.OnlyListedInstructionsWriteEachPart := by
  intro i s t h
  exact exec_keepsAllBut h

/-! ### What holds of both outcomes of a checked access -/

theorem State.checked_induction {P : State → Prop} {s t : State} {base len : Nat} (hraise : ∀ f, P (s.raise f))
    (hdone : P t) : P (s.checked base len t) := by
  rcases s.checked_cases t base len with ⟨-, e⟩ | ⟨-, e⟩ <;> rw [e]
  · exact hdone
  · exact hraise _

/-! ### The registers -/

/-- R161: FX65 leaves the registers above `VX`. -/
theorem State.getV_loadRegs (s : State) (base : Nat) (x r : Reg) :
    (s.setRegs (loadRegs s.mem base s.v (x.val + 1))).getV r =
      if r ≤ x then s.mem.read (base + r.val) else s.getV r := by
  have hle : r.val < x.val + 1 ↔ r ≤ x := by rw [Fin.le_def, Nat.lt_succ_iff]
  have hx := x.isLt
  rw [State.getV, State.setRegs_v, loadRegs_getElem _ _ _ _ (by omega) _ r.isLt]
  simp only [hle]
  rfl

/-- R20, R21: a register that is neither a destination nor a written flag stays. -/
theorem exec_keeps_getV {i : Instr} {s t : State} (h : exec i s = .next t) {r : Reg} (hr : writesReg i r = false) :
    t.getV r = s.getV r := by
  cases i with
  | op6XNN x | op7XNN x | op8XY0 x | op8XY1 x | op8XY2 x | op8XY3 x | opCXNN x | opFX07 x =>
    cases h
    have hx : r ≠ x := by simpa [writesReg] using hr
    exact s.getV_setV_ne _ hx
  | op8XY4 x | op8XY5 x | op8XY6 x | op8XY7 x | op8XYE x =>
    cases h
    have hx : r ∉ [x, 15] := by simpa [writesReg] using hr
    exact keepsRegsBut_setResultAndFlag s x _ _ r hx
  | opDXYN x y n =>
    cases h
    have hflag : r ≠ 15 := by simpa [writesReg] using hr
    refine State.checked_induction (P := fun t => t.getV r = s.getV r) (fun _ => rfl) ?_
    exact (s.setDisp _).getV_setV_ne _ hflag
  | opFX65 x =>
    cases h
    have hx : ¬ r ≤ x := by simpa [writesReg] using hr
    refine State.checked_induction (P := fun t => t.getV r = s.getV r) (fun _ => rfl) ?_
    exact (s.getV_loadRegs _ x r).trans (if_neg hx)
  | _ => exact exec_keepsAllBut h .regs (by simp [partsOf]) r

/-- R21: a flag writer leaves 0 or 1 in `VF`. -/
theorem State.setFlag_zero_or_one (s : State) (c : Bool) : (s.setFlag c).getV 15 = 0 ∨ (s.setFlag c).getV 15 = 1 := by
  rw [State.getV_setFlag, if_pos rfl]
  exact flagByte_zero_or_one c

/-- Settles O12 (R20, R21): registers by the shape of each instruction; the flag is written last and is 0 or 1. -/
theorem registersChangeOnlyAsDestinationOrFlag : Obligations.RegistersChangeOnlyAsDestinationOrFlag := by
  intro i s t h
  refine ⟨fun r hr => exec_keeps_getV h hr, ?arithmetic, ?draw⟩
  case arithmetic =>
    intro x y hi
    rcases hi with rfl | rfl | rfl | rfl | rfl <;> cases h <;> exact State.setFlag_zero_or_one (s.setV x _) _
  case draw =>
    intro x y n hi _ ht
    subst hi
    cases h
    rcases s.checked_cases (s.drawSpriteAt x y n).advance s.i.toNat n.toNat with ⟨-, e⟩ | ⟨-, e⟩
    · rw [e]
      exact State.setFlag_zero_or_one (s.setDisp _) _
    · rw [e] at ht
      cases ht

/-! ### The sampled inputs -/

/-- The state with other inputs from the host: its schedule, and the number of the free value. -/
def State.withInputs (s : State) (schedule : List HostEvent) (draw : Nat) : State :=
  { s with host := schedule, draws := draw }

theorem State.checked_withInputs (s : State) {t t' : State} (base len : Nat) (schedule : List HostEvent) (draw : Nat)
    (ht : t' = t.withInputs schedule draw) :
    (s.withInputs schedule draw).checked base len t' = (s.checked base len t).withInputs schedule draw := by
  rw [ht]
  rcases s.checked_cases t base len with ⟨h, e⟩ | ⟨⟨h, h'⟩, e⟩ <;> rw [e]
  · exact State.checked_inside _ _ h
  · exact State.checked_outside _ _ h h'

/-- R37, R38: an instruction that samples no input has the same effect under all inputs. -/
theorem exec_withInputs {i : Instr} {s t : State} (schedule : List HostEvent) (draw : Nat)
    (hkeys : ∀ x, i ≠ .opEX9E x ∧ i ≠ .opEXA1 x) (hrnd : ∀ x nn, i ≠ .opCXNN x nn) (h : exec i s = .next t) :
    exec i (s.withInputs schedule draw) = .next (t.withInputs schedule draw) := by
  cases i with
  | opEX9E x => exact absurd rfl (hkeys x).1
  | opEXA1 x => exact absurd rfl (hkeys x).2
  | opCXNN x nn => exact absurd rfl (hrnd x nn)
  | op00EE =>
    rcases exec_op00EE_cases h with ⟨hsp, rfl⟩ | ⟨r, a, rfl, rfl⟩
    · exact exec_op00EE_empty (s := s.withInputs schedule draw) hsp
    · exact exec_op00EE_push (r.withInputs schedule draw) a
  | op2NNN nnn =>
    rcases exec_op2NNN_cases h with ⟨hsp, rfl⟩ | ⟨hsp, rfl⟩
    · exact exec_op2NNN_pushes nnn (s := s.withInputs schedule draw) hsp
    · exact exec_op2NNN_overflows nnn (s := s.withInputs schedule draw) hsp
  | opDXYN | opFX33 | opFX55 | opFX65 =>
    cases h
    exact congrArg Host.Outcome.next (s.checked_withInputs _ _ schedule draw rfl)
  | _ => cases h; rfl

/-- Settles O16 (R37, R38): the sampled values are the only reads of the schedule and the draw counter; EX9E and EXA1 take
`keys` from the scheduled step, CXNN takes `rnd`. -/
theorem inputsReachOnlyTheirInstructions : Obligations.InputsReachOnlyTheirInstructions := by
  refine ⟨?neither, ?keys, ?rnd⟩
  case neither =>
    intro i s t schedule draw hkeys hrnd h
    exact exec_withInputs schedule draw hkeys hrnd h
  case keys =>
    intro s t i x keys rnd rnd' rest hi h
    rcases hi with rfl | rfl <;> cases h <;> rfl
  case rnd =>
    intro s t x nn keys keys' rnd rest h
    cases h
    rfl

/-! ### Call and return -/

/-- Settles O26 (R119): the call below the full depth is a push of `PC` and a jump, else the overflow. -/
theorem callPushesItsOwnAddress : Obligations.CallPushesItsOwnAddress := by
  constructor
  · intro nnn s hsp
    have older : ∀ k, k < s.sp → (s.push s.pc).stackEntry k = s.stackEntry k :=
      fun k hk => State.stackEntry_push_older s s.pc hk
    exact ⟨_, exec_op2NNN_pushes nnn hsp, zext16_toNat nnn, rfl, State.stackEntry_push_newest s s.pc, older,
      ((keepsAllBut_refl _ s).push (by simp) s.pc).setPc _⟩
  · intro nnn s hsp
    exact exec_op2NNN_overflows nnn (Nat.le_of_eq hsp.symm)

/-- Settles O27 (R116, R119): the state after the call is a push on the state before it, at whatever `PC`, and the return
undoes the push. -/
theorem returnUndoesCall : Obligations.ReturnUndoesCall := by
  intro nnn s w hsp
  have hreturn : exec .op00EE (((s.push s.pc).setPc (zext16 nnn)).setPc w) = .next ((s.setPc w).setPc s.pc).advance :=
    exec_op00EE_push (s.setPc w) s.pc
  exact ⟨_, _, exec_op2NNN_pushes nnn hsp, hreturn, rfl, (((keepsAllBut_refl _ s).setPc w).setPc s.pc).advance⟩

/-! ### Key skips and the random byte -/

/-- R130: the key is selected by the low four bits. -/
theorem keyDown_keyOf (keys : Word) (b : Byte) : keyDown keys (keyOf b) = keys.getLsbD (b.toNat % 16) := by
  rw [keyDown, keyOf_toNat]

/-- Settles O29 (R130, R131): the levels are those sampled; a skip and the draw counter are all that is written. -/
theorem keySkipsTestTheSampledLevel : Obligations.KeySkipsTestTheSampledLevel := by
  intro x s
  refine ⟨s.sampledKeys, fun _ _ _ h => State.sampledKeys_scheduled h, ?opEX9E, ?opEXA1⟩
  case opEX9E =>
    refine ⟨_, exec_opEX9E x s, ?_, keepsAllBut_skipIf_drawn_advance s (by simp) _⟩
    rw [keyDown_keyOf]
    exact s.skipIf_advance_pc _
  case opEXA1 =>
    refine ⟨_, exec_opEXA1 x s, ?_, keepsAllBut_skipIf_drawn_advance s (by simp) _⟩
    rw [keyDown_keyOf]
    refine (s.skipIf_advance_pc _).trans ?_
    simp only [Bool.not_eq_true', ← Bool.not_eq_true, ite_not]

/-- Settles O35 (R148): the byte is the one sampled, masked bit by bit. -/
theorem randomIsTheSampledByteMasked : Obligations.RandomIsTheSampledByteMasked := by
  intro x nn s
  refine ⟨s.sampledRnd, fun _ _ _ h => State.sampledRnd_scheduled h, _, exec_opCXNN x nn s, ?masked, rfl,
    keepsRegsBut_setV s x _, keepsAllBut_setV_drawn_advance s (by simp) (by simp) _ _⟩
  case masked =>
    intro k
    rw [State.getV_advance, State.getV_drawn, State.getV_setV_self, BitVec.getLsbD_and]

/-! ### The index register and blocks of memory -/

/-- Settles O37 (R157): FX1E writes `I` alone, the sum modulo 65536. -/
theorem addToIndexWrapsAndWritesNoFlag : Obligations.AddToIndexWrapsAndWritesNoFlag := by
  intro x s
  exact exec_of_setI (exec_opFX1E x s) (indexSum_toNat s.i (s.getV x))

/-- Consecutive stores that lie in memory: what they leave in memory, and their frame. -/
theorem store_block {s : State} (hm : s.mem.wf = true) (base : Nat) (bytes : List Byte)
    (h : base + bytes.length ≤ 4096) :
    (∀ k, (hk : k < bytes.length) → (s.setMem (s.mem.writeBlock base bytes)).mem.read (base + k) = bytes[k]) ∧
    KeepsMemoryOutside base bytes.length s (s.setMem (s.mem.writeBlock base bytes)) ∧
    KeepsAllBut [.memory] s (s.setMem (s.mem.writeBlock base bytes)) := by
  refine ⟨fun k hk => ?inside, fun a ha => ?outside, (keepsAllBut_refl _ s).setMem (by simp) _⟩
  case inside => exact Memory.read_writeBlock_inside hm h hk
  case outside => exact Memory.read_writeBlock_outside hm h ha

/-- Settles O38 (R159): the three digits are stored as a block at `I`. -/
theorem bcdStoresTheThreeDigits : Obligations.BcdStoresTheThreeDigits := by
  intro x s hm hi
  obtain ⟨inside, outside, frame⟩ := store_block hm s.i.toNat (bcdDigits (s.getV x))
    (by simp only [bcdDigits, List.length_cons, List.length_nil]; omega)
  have hdigits := bcdDigits_toNat (s.getV x)
  simp only [bcdDigits, List.map_cons, List.cons.injEq] at hdigits
  obtain ⟨hundreds, tens, units, -⟩ := hdigits
  refine ⟨_, (exec_opFX33 x s).trans (congrArg _ (s.checked_inside _ (by omega))), ?hundreds, ?tens, ?units, outside, rfl,
    frame.advance⟩
  case hundreds => exact (congrArg BitVec.toNat (inside 0 (by simp [bcdDigits]))).trans hundreds
  case tens => exact (congrArg BitVec.toNat (inside 1 (by simp [bcdDigits]))).trans tens
  case units => exact (congrArg BitVec.toNat (inside 2 (by simp [bcdDigits]))).trans units

/-- R160 within memory. -/
theorem exec_opFX55_inside {x : Reg} {s : State} (h : s.i.toNat + x.val ≤ 0xFFF) :
    exec (.opFX55 x) s = .next (s.setMem (s.mem.writeBlock s.i.toNat (s.firstRegs x))).advance :=
  congrArg Host.Outcome.next (storeRegisters_inside s x h Config.iIncrement)

/-- R161 within memory. -/
theorem exec_opFX65_inside {x : Reg} {s : State} (h : s.i.toNat + x.val ≤ 0xFFF) :
    exec (.opFX65 x) s = .next (s.setRegs (loadRegs s.mem s.i.toNat s.v (x.val + 1))).advance :=
  congrArg Host.Outcome.next (loadRegisters_inside s x h Config.iIncrement)

/-- Settles O39 (R160): the registers are stored as a block at `I`. -/
theorem storeRegistersCopiesV0ToVX : Obligations.StoreRegistersCopiesV0ToVX := by
  intro x s hm hi
  obtain ⟨inside, outside, frame⟩ := store_block hm s.i.toNat (s.firstRegs x)
    (by rw [State.firstRegs_length]; omega)
  rw [State.firstRegs_length] at outside
  refine ⟨_, exec_opFX55_inside hi, fun r hr => ?_, outside, rfl, frame.advance⟩
  have hlen : r.val < (s.firstRegs x).length := by
    rw [State.firstRegs_length]
    exact Nat.lt_succ_of_le hr
  exact (inside r.val hlen).trans (s.firstRegs_getElem x r hlen)

/-- Settles O40 (R161): the block at `I` is loaded into the registers up to `VX`. -/
theorem loadRegistersCopiesIntoV0ToVX : Obligations.LoadRegistersCopiesIntoV0ToVX := by
  intro x s hi
  refine ⟨_, exec_opFX65_inside hi, fun r hr => ?loaded, fun r hr => ?kept, rfl,
    keepsAllBut_setRegs_advance s (by simp) _⟩
  case loaded => exact (s.getV_loadRegs _ x r).trans (if_pos hr)
  case kept => exact (s.getV_loadRegs _ x r).trans (if_neg (not_le_of_gt hr))

/-! ### The other conventions (R6) -/

theorem indexOverflow_toNat (i : Word) (b : Byte) :
    (flagByte (indexOverflow i b)).toNat = if 0xFFF < i.toNat + b.toNat then 1 else 0 := by
  rw [flagByte_toNat, indexOverflow]
  simp only [decide_eq_true_eq]

theorem addToIndex_withFlag (x : Reg) (s : State) :
    addToIndex true x s = (s.setI (indexSum s.i (s.getV x))).setFlag (indexOverflow s.i (s.getV x)) := rfl

/-- R160, R161: with `I_INCREMENT`, `I` ends after the block; within memory it does not wrap. -/
theorem stepIndex_increment_toNat {x : Reg} {s : State} (h : s.i.toNat + x.val ≤ 0xFFF) :
    (s.stepIndex true x).i.toNat = s.i.toNat + x.val + 1 := by
  change (BitVec.ofNat 16 (s.i.toNat + x.val + 1)).toNat = _
  rw [BitVec.toNat_ofNat]
  omega

/-- Settles O41 (R157, R160, R161): the flag convention adds one flag write; the index convention adds one write of `I`. -/
theorem theOtherConventionsAreAsStated : Obligations.TheOtherConventionsAreAsStated := by
  intro x s
  constructor
  · rw [addToIndex_withFlag]
    refine ⟨indexSum_toNat s.i (s.getV x), ?flag, ?regs, ?frame⟩
    case flag => rw [State.getV_setFlag, if_pos rfl, indexOverflow_toNat]
    case regs =>
      exact keepsRegsBut_setV (s.setI (indexSum s.i (s.getV x))) 15 _
    case frame => exact ((keepsAllBut_refl _ s).setI (by simp) _).setFlag (by simp) _
  · intro hi
    rw [storeRegisters_inside s x hi true, storeRegisters_inside s x hi false, loadRegisters_inside s x hi true,
      loadRegisters_inside s x hi false]
    exact ⟨stepIndex_increment_toNat hi, rfl, stepIndex_increment_toNat hi, rfl⟩

/-! ### Accesses beyond memory -/

/-- Settles O42 (R186): each access is checked as a whole before its effect. -/
theorem accessBeyondMemoryHaltsWithTheLowestAddress : Obligations.AccessBeyondMemoryHaltsWithTheLowestAddress := by
  intro x y n s
  refine ⟨fun h => ?opFX33, fun h => ⟨?opFX55, ?opFX65⟩, fun hn h => ?opDXYN⟩
  case opFX33 => exact (exec_opFX33 x s).trans (congrArg _ (s.checked_outside _ (by omega) (by omega)))
  case opFX55 => exact (exec_opFX55 x s).trans (congrArg _ (s.checked_outside _ (by omega) (by omega)))
  case opFX65 => exact (exec_opFX65 x s).trans (congrArg _ (s.checked_outside _ (by omega) (by omega)))
  case opDXYN => exact (exec_opDXYN x y n s).trans (congrArg _ (s.checked_outside _ hn h))

/-! ### Drawing -/

theorem State.spriteRows_length_le (s : State) (n : BitVec 4) : 0 + (s.spriteRows n).length ≤ 32 := by
  have hn := n.isLt
  rw [State.spriteRows, Memory.readBlock_length]
  omega

/-- R168: every pixel is XORed with the sprite bit that lands on it. -/
theorem State.pixel_drawSpriteAt (s : State) (x y : Reg) (n : BitVec 4) (px : Fin 64) (py : Fin 32) :
    (s.drawSpriteAt x y n).pixel px py = (s.pixel px py ^^ spriteBit s x y n px py) := by
  rw [spriteBit_eq]
  exact drawRows_pixel _ _ _ 0 (s.spriteRows_length_le n) _ px py

/-- R168: the collision is a sprite bit on a pixel that was on. -/
theorem State.getV_flag_drawSpriteAt (s : State) (x y : Reg) (n : BitVec 4) :
    (s.drawSpriteAt x y n).getV 15 = 1 ↔ ∃ px py, s.pixel px py = true ∧ spriteBit s x y n px py = true := by
  have hcollision := drawRows_collision (s.getV x) (s.getV y) (s.spriteRows n) 0 (s.spriteRows_length_le n) (s.disp, false)
  rw [State.drawSpriteAt, State.getV_setFlag, if_pos rfl, flagByte_eq_one, drawSprite, hcollision]
  simp only [Bool.false_eq_true, false_or, spriteBit_eq]
  rfl

/-- R167 within memory. -/
theorem exec_opDXYN_inside {x y : Reg} {n : BitVec 4} {s : State} (h : n.toNat = 0 ∨ s.i.toNat + n.toNat - 1 ≤ 0xFFF) :
    exec (.opDXYN x y n) s = .next (s.drawSpriteAt x y n).advance :=
  (exec_opDXYN x y n s).trans (congrArg _ (s.checked_inside _ h))

/-- Settles O45 (R167, R168): pixel by pixel; a pixel goes off exactly where a sprite bit lands on one that was on. -/
theorem drawXorsTheSpriteAndReportsCollision : Obligations.DrawXorsTheSpriteAndReportsCollision := by
  intro x y n s hin
  refine ⟨_, exec_opDXYN_inside hin, s.pixel_drawSpriteAt x y n, State.setFlag_zero_or_one (s.setDisp _) _, ?collision, rfl,
    keepsRegsBut_setV (s.setDisp _) 15 _, keepsAllBut_drawSpriteAt_advance s (by simp) (by simp) x y n⟩
  case collision =>
    simp only [State.getV_advance, State.pixel_advance, State.getV_flag_drawSpriteAt, State.pixel_drawSpriteAt]
    refine exists_congr fun px => exists_congr fun py => and_congr_right fun hon => ?_
    simp [hon]

/-- The sprite bits depend on `VX`, `VY`, `I` and memory alone. -/
theorem spriteBit_congr {s t : State} {x y : Reg} (hx : t.getV x = s.getV x) (hy : t.getV y = s.getV y) (hi : t.i = s.i)
    (hmem : ∀ a, t.mem.read a = s.mem.read a) (n : BitVec 4) (px : Fin 64) (py : Fin 32) :
    spriteBit t x y n px py = spriteBit s x y n px py := by
  simp only [spriteBit, hx, hy, hi, hmem]

/-- Settles O46 (R167): with `VX` and `VY` not the flag the second draw lays the same bits, and two XORs cancel. -/
theorem drawingTwiceRestoresTheFrame : Obligations.DrawingTwiceRestoresTheFrame := by
  intro x y n s t hx hy hin hexec
  obtain ⟨t', hexec', hpixel, -, -, -, hregs, hframe⟩ := drawXorsTheSpriteAndReportsCollision x y n s hin
  obtain rfl : t' = t := Host.Outcome.next.inj (hexec'.symm.trans hexec)
  have hi : t'.i = s.i := hframe .index (by simp)
  have hmem : ∀ a, t'.mem.read a = s.mem.read a := hframe .memory (by simp)
  have hbit : ∀ px py, spriteBit t' x y n px py = spriteBit s x y n px py :=
    spriteBit_congr (hregs x (by simpa using hx)) (hregs y (by simpa using hy)) hi hmem n
  rw [← hi] at hin
  obtain ⟨u, hexecu, hpixelu, -, hcollision, -⟩ := drawXorsTheSpriteAndReportsCollision x y n t' hin
  have hrestored : ∀ px py, u.pixel px py = s.pixel px py := by
    intro px py
    rw [hpixelu, hbit, hpixel, Bool.xor_assoc, Bool.xor_self, Bool.xor_false]
  refine ⟨u, hexecu, hrestored, ?_⟩
  simp only [hcollision, hrestored, and_comm]

/-! ### The key wait -/

/-- Settles O48 (R177): FX0A writes the wait state alone. -/
theorem keyWaitEntersTheBlockedState : Obligations.KeyWaitEntersTheBlockedState := by
  intro x s
  exact ⟨_, exec_opFX0A x s, rfl, rfl, rfl, (keepsAllBut_refl _ s).block (by simp) x⟩

end Sys2Proof.Machine

namespace Sys2Proof.Machine

/-! ### Where a failure is raised (60_exceptions.md R186 to R189) -/

/-- What holds of the state in which a failure is raised. -/
def State.CanRaise (s : State) : Fault → Prop
  | .outOfBounds a => 0x1000 ≤ a ∧ a ≤ 0xFFFF
  | .invalidOpcode op => decodeOp op = none
  | .stackOverflow => 16 ≤ s.sp
  | .stackUnderflow => s.sp = 0

/-- A failure raised where it can be fits the halted machine, whose stack is at most `STACK_DEPTH` deep. -/
theorem State.CanRaise.faultFits {s : State} {f : Fault} (h : s.CanRaise f) (hdepth : s.sp ≤ 16) :
    (s.raise f).FaultFits := by
  cases f with
  | stackOverflow => exact Nat.le_antisymm hdepth h
  | outOfBounds | invalidOpcode | stackUnderflow => exact h

/-- R102: the address a failing fetch records is one beyond memory. -/
theorem State.canRaise_fetch_failure (s : State) (hpc : 0xFFE < s.pc.toNat) :
    s.CanRaise (.outOfBounds (if 0xFFF < s.pc.toNat then s.pc.toNat else 0x1000)) := by
  have hlt := s.pc.isLt
  change 0x1000 ≤ (if 0xFFF < s.pc.toNat then s.pc.toNat else 0x1000) ∧ _ ≤ 0xFFFF
  split <;> omega

/-- A checked access at `I` fails only with an address of 0x1000 to 0xFFFF (R186). -/
theorem State.checked_fault_cases (s : State) {t : State} (len : Nat) (ht : t.fault = s.fault) :
    (s.checked s.i.toNat len t).fault = s.fault ∨
      ∃ f, s.CanRaise f ∧ s.checked s.i.toNat len t = s.raise f := by
  have hi := s.i.isLt
  rcases s.checked_cases t s.i.toNat len with ⟨-, e⟩ | ⟨-, e⟩
  · exact .inl (by rw [e, ht])
  · refine .inr ⟨_, ?_, e⟩
    change 0x1000 ≤ max s.i.toNat 0x1000 ∧ max s.i.toNat 0x1000 ≤ 0xFFFF
    omega

/-- R190: an instruction leaves `FAULT`, or it does nothing but record a failure. -/
theorem exec_fault_cases {i : Instr} {s t : State} (h : exec i s = .next t) :
    t.fault = s.fault ∨ ∃ f, s.CanRaise f ∧ t = s.raise f := by
  cases i with
  | op00EE =>
    rcases exec_op00EE_cases h with ⟨hsp, rfl⟩ | ⟨r, a, rfl, rfl⟩
    · exact .inr ⟨.stackUnderflow, hsp, rfl⟩
    · exact .inl rfl
  | op2NNN nnn =>
    rcases exec_op2NNN_cases h with ⟨-, rfl⟩ | ⟨hsp, rfl⟩
    · exact .inl rfl
    · exact .inr ⟨.stackOverflow, hsp, rfl⟩
  | opDXYN | opFX33 | opFX55 | opFX65 =>
    cases h
    exact s.checked_fault_cases _ rfl
  | _ => exact .inl (exec_keepsAllBut h .fault (by simp [partsOf]))

/-- R190, R192: so does a step event, where the failure may also be one of fetch or decode. -/
theorem stepEvent_fault_cases {s t : State} (h : stepEvent s = .next t) :
    t.fault = s.fault ∨ ∃ f, s.CanRaise f ∧ t = s.raise f := by
  rcases stepEvent_cases s with ⟨-, e⟩ | ⟨-, hpc, e⟩ | ⟨-, -, hd, e⟩ | ⟨i, -, -, -, e⟩ <;> rw [e] at h
  · cases h
    exact .inl rfl
  · cases h
    exact .inr ⟨_, s.canRaise_fetch_failure hpc, rfl⟩
  · cases h
    exact .inr ⟨.invalidOpcode s.opAtPc, hd, rfl⟩
  · exact exec_fault_cases h

/-! ### Every event and every step has a next state -/

/-- No instruction writes the schedule. -/
theorem host_notMem_partsOf (i : Instr) : Part.host ∉ partsOf i := by
  cases i <;> simp [partsOf]

theorem stepEvent_next (s : State) : ∃ t, stepEvent s = .next t ∧ t.host = s.host := by
  rcases stepEvent_cases s with ⟨-, e⟩ | ⟨-, -, e⟩ | ⟨-, -, -, e⟩ | ⟨i, -, -, -, e⟩
  · exact ⟨_, e, rfl⟩
  · exact ⟨_, e, rfl⟩
  · exact ⟨_, e, rfl⟩
  · obtain ⟨t, hexec, frame⟩ := exec_frame i s
    exact ⟨t, e.trans hexec, frame .host (host_notMem_partsOf i)⟩

theorem State.load_eq_setMem (s : State) (bytes : List Byte) : ∃ m, s.load bytes = s.setMem m := by
  rcases Nat.lt_or_ge 3584 bytes.length with h | h
  · exact ⟨s.mem, s.load_too_long h⟩
  · exact ⟨_, s.load_fits h⟩

theorem State.deliverKey_host (s : State) (k : BitVec 4) : (s.deliverKey k).host = s.host := by
  by_cases h : s.Blocked
  · rw [State.deliverKey_pending h]
    rfl
  · rw [State.deliverKey_dropped h]

/-- R12: every event has a next state and leaves the schedule to the machine. -/
theorem hostEvent_next (e : HostEvent) (s : State) : ∃ t, hostEvent e s = .next t ∧ t.host = s.host := by
  cases e with
  | reset => exact ⟨_, rfl, rfl⟩
  | load bytes =>
    obtain ⟨m, hload⟩ := s.load_eq_setMem bytes
    exact ⟨_, hostEvent_load s bytes, by rw [hload, State.setMem_host]⟩
  | step => exact stepEvent_next s
  | deliverKey k => exact ⟨_, rfl, s.deliverKey_host k⟩
  | tickTimers => exact ⟨_, rfl, rfl⟩

/-- Where an event heads the schedule, a step is that event, and the schedule goes on. -/
theorem step_of_hostEvent {s t : State} {e : HostEvent} {rest : List HostEvent} (hhost : s.host = e :: rest)
    (h : hostEvent e s = .next t) : step s = .next (t.setHost rest) := by
  rw [step, nextEvent, hhost]
  simp only [h, finishEvent]

theorem step_of_stepEvent {s t : State} (hhost : s.host = []) (h : stepEvent s = .next t) : step s = .next t := by
  rw [step, nextEvent, hhost]
  exact h

/-- Settles O22 (R12, R111): the head of the schedule happens, and only then the schedule goes on. -/
theorem scheduledEventsHappenInOrder : Obligations.ScheduledEventsHappenInOrder := by
  intro s e rest hhost
  obtain ⟨t, hevent, hkeep⟩ := hostEvent_next e s
  exact ⟨t, hevent, step_of_hostEvent hhost hevent, hkeep⟩

/-- Settles O13 (R12, R100): by the frame of each instruction, and by the head of the schedule. -/
theorem everyInstructionAndStepHasANextState : Obligations.EveryInstructionAndStepHasANextState := by
  constructor
  · intro i s
    obtain ⟨t, hexec, -⟩ := exec_frame i s
    exact ⟨t, hexec⟩
  · intro s
    cases hhost : s.host with
    | nil =>
      obtain ⟨t, hevent, -⟩ := stepEvent_next s
      exact ⟨t, step_of_stepEvent hhost hevent⟩
    | cons e rest =>
      obtain ⟨t, hevent, -⟩ := hostEvent_next e s
      exact ⟨_, step_of_hostEvent hhost hevent⟩

/-! ### A step where the next event is a step -/

/-- Scheduled or not, a step event happens, and the schedule goes on. -/
theorem State.StepIsNext.step_eq {s t : State} (hnext : s.StepIsNext) (h : stepEvent s = .next t) :
    step s = .next (t.setHost s.host.tail) := by
  cases hhost : s.host with
  | nil =>
    obtain ⟨u, hu, hkeep⟩ := stepEvent_next s
    obtain rfl : u = t := Host.Outcome.next.inj (hu.symm.trans h)
    rw [step_of_stepEvent hhost h, List.tail_nil, ← hhost, ← hkeep]
    rfl
  | cons e rest =>
    have hstep : e.isStep = true := hnext e (by simp [hhost])
    cases e with
    | step keys rnd => exact step_of_hostEvent hhost h
    | reset | load | deliverKey | tickTimers => cases hstep

/-- Settles O5 (R100): the word at `PC` is the one fetched, and it decodes. -/
theorem stepExecutesTheDecodedInstruction : Obligations.StepExecutesTheDecodedInstruction := by
  intro s i hrun hpc hdecode
  have hevent : stepEvent s = exec i s := stepEvent_executes s hrun hpc hdecode
  constructor
  · intro hhost
    obtain ⟨t, hexec, -⟩ := exec_frame i s
    rw [hexec]
    exact step_of_stepEvent hhost (hevent.trans hexec)
  · intro keys rnd rest t hhost hexec
    exact step_of_hostEvent hhost (hevent.trans hexec)

/-- Settles O6 (R102): the fetch fails, and the failure is recorded. -/
theorem fetchOutsideMemoryHaltsWithTheAddress : Obligations.FetchOutsideMemoryHaltsWithTheAddress := by
  intro s hrun hnext hpc
  exact hnext.step_eq (stepEvent_fetch_fails s hrun hpc)

/-- Settles O7 (R103, R187): the decode fails, and the failure is recorded. -/
theorem illegalWordHaltsWithTheWord : Obligations.IllegalWordHaltsWithTheWord := by
  intro s hrun hnext hpc hdecode
  exact hnext.step_eq (stepEvent_decode_fails s hrun hpc hdecode)

/-- Settles O8 (R101): the step event of a blocked or halted core is no change; the reply is read off `FAULT`. -/
theorem stepWhileBlockedOrHaltedChangesNothing : Obligations.StepWhileBlockedOrHaltedChangesNothing := by
  intro s hnext
  constructor
  · intro hblocked
    obtain ⟨hfault, hwait⟩ := hblocked
    exact ⟨hnext.step_eq (stepEvent_blocked s hwait), by rw [stepReply, hfault]⟩
  · intro f hhalted
    have hfault : s.fault = some f := hhalted
    exact ⟨hnext.step_eq (stepEvent_halted s hfault), by rw [stepReply, hfault]⟩

/-! ### Failures: what records them and what clears them -/

/-- An event that records a failure where there was none is a step event, and does nothing else. -/
theorem hostEvent_records_failure {e : HostEvent} {s u : State} {f : Fault} (hfault : s.fault = none)
    (h : hostEvent e s = .next u) (hu : u.fault = some f) : u = s.raise f := by
  have hkept : u.fault ≠ s.fault := by rw [hu, hfault]; exact Option.some_ne_none f
  cases e with
  | reset => cases h; cases hu
  | load bytes =>
    cases h
    obtain ⟨m, hload⟩ := s.load_eq_setMem bytes
    exact absurd (congrArg State.fault hload) hkept
  | step keys rnd =>
    rcases stepEvent_fault_cases h with hkeep | ⟨g, -, rfl⟩
    · exact absurd hkeep hkept
    · cases hu
      rfl
  | deliverKey k =>
    cases h
    refine absurd ?_ hkept
    by_cases hb : s.Blocked
    · rw [State.deliverKey_pending hb]
      rfl
    · rw [State.deliverKey_dropped hb]
  | tickTimers => cases h; exact absurd rfl hkept

/-- Settles O10 (R105, R190, R191): only a step event records a failure, and it records it alone. -/
theorem aFailingStepChangesOnlyTheFault : Obligations.AFailingStepChangesOnlyTheFault := by
  intro s t f hfault hstep ht
  rcases step_cases hstep with ⟨hhost, hevent⟩ | ⟨e, rest, u, hhost, hevent, rfl⟩
  · have hraise : t = s.raise f := hostEvent_records_failure (e := .step 0 0) hfault hevent ht
    rw [hraise, hhost, List.tail_nil, ← hhost]
    rfl
  · have hraise : u = s.raise f := hostEvent_records_failure hfault hevent ht
    rw [hraise, hhost]
    rfl

/-- Where the schedule is outside the frame, it may go on. -/
theorem KeepsAllBut.setHost {parts : List Part} (hhost : Part.host ∈ parts) {s t : State}
    (h : KeepsAllBut parts s t) (rest : List HostEvent) : KeepsAllBut parts s (t.setHost rest) := by
  intro p hp
  have hkeep := h p hp
  cases p with
  | host => exact absurd hhost hp
  | _ => simpa [Keeps] using hkeep

/-- Where the timers are outside the frame, they may count down. -/
theorem KeepsAllBut.tickTimers {parts : List Part} (hdelay : Part.delayTimer ∈ parts) (hsound : Part.soundTimer ∈ parts)
    {s t : State} (h : KeepsAllBut parts s t) : KeepsAllBut parts s t.tickTimers :=
  (h.setDt hdelay (countDown t.dt)).setSt hsound (countDown t.st)

/-- Settles O9 (R194, R195): in a halted core a step is no change and a key is dropped; `load` writes memory alone and
`tick_timers` the timers alone. -/
theorem onlyResetClearsAFailure : Obligations.OnlyResetClearsAFailure := by
  intro s t f hhalted hreset hstep
  have hrefl := keepsAllBut_refl [.delayTimer, .soundTimer, .memory, .host] s
  rcases step_cases hstep with ⟨-, hevent⟩ | ⟨e, rest, u, hhost, hevent, rfl⟩
  · rw [stepEvent_halted s hhalted] at hevent
    cases hevent
    exact ⟨hhalted, rfl, hrefl, fun _ => rfl, fun _ => ⟨rfl, rfl⟩⟩
  have hnoChange : KeepsAllBut _ s (s.setHost rest) := hrefl.setHost (by simp) rest
  rw [hhost] at hreset ⊢
  cases e with
  | reset => exact absurd rfl hreset
  | load bytes =>
    cases hevent
    obtain ⟨m, hload⟩ := s.load_eq_setMem bytes
    rw [hload]
    exact ⟨hhalted, rfl, (hrefl.setMem (by simp) m).setHost (by simp) rest, fun hload => absurd rfl (hload bytes),
      fun _ => ⟨rfl, rfl⟩⟩
  | step keys rnd =>
    obtain rfl : s = u := Host.Outcome.next.inj ((stepEvent_halted s hhalted).symm.trans hevent)
    exact ⟨hhalted, rfl, hnoChange, fun _ => rfl, fun _ => ⟨rfl, rfl⟩⟩
  | deliverKey k =>
    cases hevent
    have hnot : ¬ s.Blocked := fun hblocked => Option.some_ne_none f (hhalted.symm.trans hblocked.1)
    rw [State.deliverKey_dropped hnot]
    exact ⟨hhalted, rfl, hnoChange, fun _ => rfl, fun _ => ⟨rfl, rfl⟩⟩
  | tickTimers =>
    cases hevent
    exact ⟨hhalted, rfl, (hrefl.tickTimers (by simp) (by simp)).setHost (by simp) rest, fun _ => rfl,
      fun htick => absurd rfl htick⟩

/-! ### Reset and the other host events -/

theorem Memory.unlisted_font (a : Fin 80) : Memory.unlisted a = Config.font[a] :=
  List.getD_eq_getElem _ _ a.isLt

theorem Memory.unlisted_of_ge {a : Nat} (h : 80 ≤ a) : Memory.unlisted a = 0x00 :=
  List.getD_eq_default _ _ h

/-- Settles O17 (R40, R215): `State.reset` is itself a state after the event, and the event forgets the state it meets. -/
theorem resetGivesEveryPieceOfStateItsValue : Obligations.ResetGivesEveryPieceOfStateItsValue := by
  intro s
  refine ⟨s.resetEvent, rfl, fun t ht => ?_⟩
  obtain ⟨r, rfl⟩ : ∃ r : State, t = r.resetEvent := by
    rcases ht with rfl | rfl
    · exact ⟨s, rfl⟩
    · exact ⟨State.reset, rfl⟩
  have hregs : ∀ q, r.resetEvent.getV q = 0 := by
    intro q
    simp [State.getV, State.resetEvent, State.reset]
  exact ⟨hregs, rfl, rfl, rfl, rfl, rfl, rfl, rfl, rfl, Memory.unlisted_font, fun a ha _ => Memory.unlisted_of_ge ha,
    Frame.pixel_clear⟩

/-- Settles O18 (R107): the image is stored as a block at 0x200. -/
theorem loadPlacesTheImageAndNothingElse : Obligations.LoadPlacesTheImageAndNothingElse := by
  intro s bytes hm hlen
  obtain ⟨inside, outside, frame⟩ := store_block hm 0x200 bytes (by omega)
  exact ⟨if_pos hlen, _, congrArg Host.Outcome.next (s.load_fits hlen), inside, outside, rfl, frame⟩

/-- Where the wait state is outside the frame, leaving it keeps the frame. -/
theorem KeepsAllBut.unblock {parts : List Part} (hwait : Part.wait ∈ parts) {s t : State}
    (h : KeepsAllBut parts s t) : KeepsAllBut parts s t.unblock := by
  intro p hp
  have hkeep := h p hp
  cases p with
  | wait => exact absurd hwait hp
  | _ => simpa [Keeps] using hkeep

/-- R109: what the delivery to a blocked core changes. -/
theorem keepsAllBut_delivery (s : State) (x : Reg) (b : Byte) :
    KeepsAllBut [.regs, .wait] s (s.setV x b).advance.unblock :=
  (keepsAllBut_setV_advance s (by simp) x b).unblock (by simp)

theorem hostEvent_deliverKey_pending {s : State} (h : s.Blocked) (k : BitVec 4) :
    hostEvent (.deliverKey k) s = .next (s.setV s.waitX (zextKey k)).advance.unblock :=
  congrArg Host.Outcome.next (State.deliverKey_pending h k)

/-- Settles O20 (R109): a pending FX0A is completed by one register write, the epilogue and the end of the wait. -/
theorem deliverKeyCompletesOnlyAPendingWait : Obligations.DeliverKeyCompletesOnlyAPendingWait := by
  intro s k
  constructor
  · intro hblocked
    refine ⟨_, hostEvent_deliverKey_pending hblocked k, ?key, rfl, rfl, rfl,
      keepsRegsBut_setV s s.waitX _, keepsAllBut_delivery s s.waitX _⟩
    case key => rw [State.getV_unblock, State.getV_advance, State.getV_setV_self, zextKey_toNat]
  · intro hnot
    exact congrArg Host.Outcome.next (State.deliverKey_dropped hnot k)

/-- Settles O21 (R110): each timer counts down by itself. -/
theorem tickTimersCountsBothTimersDown : Obligations.TickTimersCountsBothTimersDown := by
  intro s
  exact ⟨s.tickTimers, rfl, countDown_toNat s.dt, countDown_toNat s.st, rfl,
    (keepsAllBut_refl _ s).tickTimers (by simp) (by simp)⟩

/-! ### The key wait over any number of steps -/

theorem run_succ_of_step {M : Host.Core} {s t : M.State} (h : M.step s = .next t) (n : Nat) :
    M.run (n + 1) s = M.run n t := by
  rw [Host.Core.run, h]

/-- R101: a blocked core whose schedule is empty stays as it is over any number of steps. -/
theorem run_of_blocked {s : State} (hwait : s.wait = true) (hhost : s.host = []) (n : Nat) :
    Sys2Proof.core.run n s = .next s := by
  have hstep : Sys2Proof.core.step s = .next s := step_of_stepEvent hhost (stepEvent_blocked s hwait)
  induction n with
  | zero => rfl
  | succ n ih => exact (run_succ_of_step hstep n).trans ih

/-- Settles O49 (R101, R109, R177): FX0A blocks the core, steps leave it, and the delivery writes `VX` and ends the wait. -/
theorem keyWaitEndsWithTheDeliveredKey : Obligations.KeyWaitEndsWithTheDeliveredKey := by
  intro x s t k n hrun hhost hexec
  cases hexec
  refine ⟨run_of_blocked (s := s.block x) rfl hhost n, ?_⟩
  have hblocked : ((s.block x).setHost [.deliverKey k]).Blocked := ⟨hrun.1, rfl⟩
  have hdeliver := step_of_hostEvent rfl (hostEvent_deliverKey_pending hblocked k)
  refine ⟨_, hdeliver, ⟨hrun.1, rfl⟩, ?key, rfl, keepsRegsBut_setV s x _, fun p hp => ?frame⟩
  case key =>
    exact (congrArg BitVec.toNat (State.getV_setV_self ((s.block x).setHost [.deliverKey k]) x _)).trans (zextKey_toNat k)
  case frame =>
    have hkeep := keepsAllBut_delivery s x (zextKey k) p hp
    cases p with
    | host => exact hhost.symm
    | wait => simp at hp
    | _ => exact hkeep

/-! ### A stored instruction -/

/-- Settles O43 (R62): the two bytes stored at `I` are those the next fetch there reads. -/
theorem aStoredInstructionIsTheOneFetched : Obligations.AStoredInstructionIsTheOneFetched := by
  intro x s i hm hx hi hrun hhost hdecode
  obtain ⟨t, hexec, hstored, -, -, frame⟩ := storeRegistersCopiesV0ToVX x s hm hi
  refine ⟨t, hexec, ?_⟩
  have hword : (t.setPc s.i).opAtPc = opcodeWord (s.getV 0) (s.getV 1) := by
    rw [← hstored 0 (Fin.zero_le x), ← hstored 1 hx]
    rfl
  have hrunning : (t.setPc s.i).Running :=
    ⟨(frame .fault (by simp)).trans hrun.1, (frame .wait (by simp)).1.trans hrun.2⟩
  have hempty : (t.setPc s.i).host = [] := (frame .host (by simp)).trans hhost
  have hpc : (t.setPc s.i).pc.toNat ≤ 0xFFE := by
    rw [State.setPc_pc]
    omega
  exact (stepExecutesTheDecodedInstruction _ i hrunning hpc (hword ▸ hdecode)).1 hempty

end Sys2Proof.Machine

namespace Sys2Proof.Machine

/-! ### What an instruction does to the stack, the wait state, memory and `PC` -/

theorem State.stack_eq_of_keeps {s t : State} (h : Keeps s t .stack) : t.stack = s.stack :=
  List.reverse_injective (List.ext_getElem? h.2)

/-- R116, R119: the stack stays, loses its newest entry, or gains the address of a call below the full depth. -/
theorem exec_stack_cases {i : Instr} {s t : State} (h : exec i s = .next t) :
    t.stack = s.stack ∨ (∃ a, s.stack = a :: t.stack) ∨ s.sp < 16 ∧ t.stack = s.pc :: s.stack := by
  cases i with
  | op00EE =>
    rcases exec_op00EE_cases h with ⟨-, rfl⟩ | ⟨r, a, rfl, rfl⟩
    · exact .inl rfl
    · exact .inr (.inl ⟨a, rfl⟩)
  | op2NNN nnn =>
    rcases exec_op2NNN_cases h with ⟨hsp, rfl⟩ | ⟨-, rfl⟩
    · exact .inr (.inr ⟨hsp, rfl⟩)
    · exact .inl rfl
  | _ => exact .inl (State.stack_eq_of_keeps (exec_keepsAllBut h .stack (by simp [partsOf])))

/-- R177: the wait state stays, or FX0A enters it at the same `PC` and without a failure. -/
theorem exec_wait_cases {i : Instr} {s t : State} (h : exec i s = .next t) :
    t.wait = s.wait ∨ t.fault = s.fault ∧ t.pc = s.pc := by
  cases i with
  | opFX0A x => cases h; exact .inr ⟨rfl, rfl⟩
  | _ => exact .inl (exec_keepsAllBut h .wait (by simp [partsOf])).1

/-- Every instruction keeps the canonical form of memory: what it stores goes through checked block stores. -/
theorem exec_mem_wf {i : Instr} {s t : State} (hm : s.mem.wf = true) (h : exec i s = .next t) : t.mem.wf = true := by
  cases i with
  | op00EE =>
    rcases exec_op00EE_cases h with ⟨-, rfl⟩ | ⟨r, a, rfl, rfl⟩ <;> exact hm
  | op2NNN nnn =>
    rcases exec_op2NNN_cases h with ⟨-, rfl⟩ | ⟨-, rfl⟩ <;> exact hm
  | opDXYN | opFX65 =>
    cases h
    exact State.checked_induction (P := fun t => t.mem.wf = true) (fun _ => hm) hm
  | opFX33 | opFX55 =>
    cases h
    exact State.checked_induction (P := fun t => t.mem.wf = true) (fun _ => hm) (Memory.writeBlock_wf _ _ hm)
  | _ => cases h; exact hm

/-- From a fetched instruction or a call address, at most a skip and the epilogue stay below 0x10FE (R24). -/
theorem pc_add_le {a d : Word} (ha : a.toNat ≤ 0xFFE) (hd : d.toNat ≤ 4) : (a + d).toNat ≤ 0x10FE := by
  rw [BitVec.toNat_add]
  omega

theorem skipIf_advance_pc_le {s : State} (hpc : s.pc.toNat ≤ 0xFFE) (c : Bool) :
    (s.skipIf c).advance.pc.toNat ≤ 0x10FE := by
  rw [State.skipIf_advance_pc]
  exact pc_add_le hpc (by cases c <;> decide)

theorem zext16_pc_le (nnn : BitVec 12) : (zext16 nnn).toNat ≤ 0x10FE := by
  have hlt := nnn.isLt
  rw [zext16_toNat]
  omega

theorem jumpOffset_pc_le (nnn : BitVec 12) (b : Byte) : (zext16 nnn + zextByte b).toNat ≤ 0x10FE := by
  have hlt := nnn.isLt
  have hlt' := b.isLt
  rw [jumpOffset_toNat]
  omega

/-- R24: a fetched instruction leaves `PC` at most 0x10FE, the highest target of BNNN. -/
theorem exec_pc_le {i : Instr} {s t : State} (hpc : s.pc.toNat ≤ 0xFFE) (hentries : ∀ a ∈ s.stack, a.toNat ≤ 0xFFE)
    (h : exec i s = .next t) : t.pc.toNat ≤ 0x10FE := by
  have hstay : s.pc.toNat ≤ 0x10FE := by omega
  have hadvance : s.advance.pc.toNat ≤ 0x10FE := pc_add_le hpc (by decide)
  cases i with
  | op00EE =>
    rcases exec_op00EE_cases h with ⟨-, rfl⟩ | ⟨r, a, rfl, rfl⟩
    · exact hstay
    · exact pc_add_le (hentries a (by simp)) (by decide)
  | op1NNN nnn =>
    cases h
    exact zext16_pc_le nnn
  | op2NNN nnn =>
    rcases exec_op2NNN_cases h with ⟨-, rfl⟩ | ⟨-, rfl⟩
    · exact zext16_pc_le nnn
    · exact hstay
  | opBNNN nnn =>
    cases h
    exact jumpOffset_pc_le nnn (s.getV 0)
  | op3XNN | op4XNN | op5XY0 | op9XY0 | opEX9E | opEXA1 => cases h; exact skipIf_advance_pc_le hpc _
  | opFX0A => cases h; exact hstay
  | opDXYN | opFX33 | opFX55 | opFX65 =>
    cases h
    exact State.checked_induction (P := fun t => t.pc.toNat ≤ 0x10FE) (fun _ => hstay) hadvance
  | _ => cases h; exact hadvance

/-! ### The invariant -/

theorem State.faultFits_of_none {s : State} (h : s.fault = none) : s.FaultFits := by
  rw [State.FaultFits, h]
  trivial

/-- A recorded failure is the only change of the machine, and it fits. -/
theorem State.Inv.raise {s : State} (hinv : s.Inv) (hrun : s.Running) {f : Fault} (hf : s.CanRaise f) :
    (s.raise f).Inv where
  mem := hinv.mem
  depth := hinv.depth
  entries := hinv.entries
  pc := hinv.pc
  blocked := fun hwait => absurd (hrun.2.symm.trans hwait) Bool.false_ne_true
  fault := hf.faultFits hinv.depth

/-- The schedule is no part of the invariant. -/
theorem State.Inv.setHost {s : State} (hinv : s.Inv) (rest : List HostEvent) : (s.setHost rest).Inv :=
  ⟨hinv.mem, hinv.depth, hinv.entries, hinv.pc, hinv.blocked, hinv.fault⟩

theorem exec_depth_le {i : Instr} {s t : State} (hdepth : s.sp ≤ 16) (h : exec i s = .next t) : t.sp ≤ 16 := by
  rcases exec_stack_cases h with hstack | ⟨a, hstack⟩ | ⟨hsp, hstack⟩ <;>
    simp only [State.sp, hstack, List.length_cons] at * <;> omega

/-- R116: every stack entry is the address of a fetched instruction. -/
theorem exec_entries_le {i : Instr} {s t : State} (hpc : s.pc.toNat ≤ 0xFFE)
    (hentries : ∀ a ∈ s.stack, a.toNat ≤ 0xFFE) (h : exec i s = .next t) : ∀ a ∈ t.stack, a.toNat ≤ 0xFFE := by
  rcases exec_stack_cases h with hstack | ⟨a, hstack⟩ | ⟨-, hstack⟩
  · rwa [hstack]
  · exact fun b hb => hentries b (hstack ▸ List.mem_cons_of_mem a hb)
  · rw [hstack]
    exact List.forall_mem_cons.mpr ⟨hpc, hentries⟩

/-- A fetched instruction keeps the invariant, its failure included. -/
theorem State.Inv.exec {i : Instr} {s t : State} (hinv : s.Inv) (hrun : s.Running) (hpc : s.pc.toNat ≤ 0xFFE)
    (h : exec i s = .next t) : t.Inv := by
  rcases exec_fault_cases h with hfault | ⟨f, hf, rfl⟩
  case inr => exact hinv.raise hrun hf
  case inl =>
    have hnone : t.fault = none := hfault.trans hrun.1
    refine ⟨exec_mem_wf hinv.mem h, exec_depth_le hinv.depth h, exec_entries_le hpc hinv.entries h,
      exec_pc_le hpc hinv.entries h, fun hwait => ⟨hnone, ?_⟩, State.faultFits_of_none hnone⟩
    rcases exec_wait_cases h with hkeep | ⟨-, hstay⟩
    · exact absurd (hrun.2.symm.trans (hkeep.symm.trans hwait)) Bool.false_ne_true
    · rwa [hstay]

/-- A step event keeps the invariant: no change, a failure of fetch or decode, or a fetched instruction. -/
theorem State.Inv.stepEvent {s t : State} (hinv : s.Inv) (h : stepEvent s = .next t) : t.Inv := by
  rcases stepEvent_cases s with ⟨-, e⟩ | ⟨hrun, hpc, e⟩ | ⟨hrun, -, hd, e⟩ | ⟨i, hrun, hpc, -, e⟩ <;> rw [e] at h
  · cases h
    exact hinv
  · cases h
    exact hinv.raise hrun (s.canRaise_fetch_failure hpc)
  · cases h
    exact hinv.raise hrun (f := .invalidOpcode s.opAtPc) hd
  · exact hinv.exec hrun hpc h

/-- R40: the event `reset` establishes the invariant in any state. -/
theorem State.resetEvent_inv (s : State) : s.resetEvent.Inv where
  mem := rfl
  depth := Nat.zero_le 16
  entries := List.forall_mem_nil _
  pc := by change (0x0200 : Word).toNat ≤ 0x10FE; decide
  blocked := fun hwait => absurd hwait Bool.false_ne_true
  fault := State.faultFits_of_none rfl

/-- Settles O15 (R40): `State.reset` is itself a state after the event `reset`. -/
theorem resetMeetsTheMachineInvariant : Obligations.ResetMeetsTheMachineInvariant := State.reset.resetEvent_inv

/-- `load` stores a block, which keeps memory canonical. -/
theorem State.Inv.load {s : State} (hinv : s.Inv) (bytes : List Byte) : (s.load bytes).Inv := by
  rcases Nat.lt_or_ge 3584 bytes.length with hlen | hlen
  · rwa [s.load_too_long hlen]
  · rw [s.load_fits hlen]
    exact ⟨Memory.writeBlock_wf _ _ hinv.mem, hinv.depth, hinv.entries, hinv.pc, hinv.blocked, hinv.fault⟩

/-- A delivered key lets a core blocked at a fetched instruction run at the next one, or is dropped. -/
theorem State.Inv.deliverKey {s : State} (hinv : s.Inv) (k : BitVec 4) : (s.deliverKey k).Inv := by
  by_cases hblocked : s.Blocked
  · rw [State.deliverKey_pending hblocked]
    have hpc := (hinv.blocked hblocked.2).2
    exact ⟨hinv.mem, hinv.depth, hinv.entries, pc_add_le hpc (by decide), fun hwait => absurd hwait Bool.false_ne_true,
      hinv.fault⟩
  · rwa [State.deliverKey_dropped hblocked]

/-- The timers are no part of the invariant. -/
theorem State.Inv.tickTimers {s : State} (hinv : s.Inv) : s.tickTimers.Inv :=
  ⟨hinv.mem, hinv.depth, hinv.entries, hinv.pc, hinv.blocked, hinv.fault⟩

theorem State.Inv.hostEvent {e : HostEvent} {s t : State} (hinv : s.Inv) (h : hostEvent e s = .next t) : t.Inv := by
  cases e with
  | reset => cases h; exact s.resetEvent_inv
  | load bytes => cases h; exact hinv.load bytes
  | step => exact hinv.stepEvent h
  | deliverKey k => cases h; exact hinv.deliverKey k
  | tickTimers => cases h; exact hinv.tickTimers

/-- Settles O14: by the event that happens, the instructions among them; the schedule is no part of the invariant. -/
theorem everyStepKeepsTheMachineInvariant : Obligations.EveryStepKeepsTheMachineInvariant := by
  intro s t hinv hstep
  rcases step_cases hstep with ⟨-, hevent⟩ | ⟨e, rest, u, -, hevent, rfl⟩
  · exact hinv.stepEvent hevent
  · exact (hinv.hostEvent hevent).setHost rest

end Sys2Proof.Machine
